-- ==== Sys2Proof/Word.lean ====
section
/-! DEFINITION. The machine's words: widths fixed by rule R5 of spec/00_scope.md. -/

namespace Sys2Proof

/-- A 16-bit word: a register value, an address, an instruction word (R5, R8). -/
abbrev Word := BitVec 16

/-- A byte, the addressable unit of memory (R5). -/
abbrev Byte := BitVec 8

/-- One hex digit of an instruction word; also the 4-bit unsigned immediate (R86, R89). -/
abbrev Nibble := BitVec 4

/-- A register number: a 4-bit field, every value of which names a register (R20). -/
abbrev Reg := BitVec 4

/-- R15, the stack pointer (R21). -/
abbrev SP : Reg := 15#4

end Sys2Proof
end

