-- ==== Sys2Proof/Config.lean ====
section
/-! DEFINITION. The parameters the manual leaves open (R6 of spec/00_scope.md), as data that a run
carries, and the free values: opaque constants that no proof can evaluate. -/

namespace Sys2Proof

/-- Which nibble of a two-field word (format RR) holds which operand (`FIELD_MAP`, R87, D1). -/
inductive FieldOrder2 where
  /-- Operand 1 in bits 3..0, operand 2 in bits 7..4: the spec's default. -/
  | inOrder
  /-- Operand 1 in bits 7..4, operand 2 in bits 3..0. -/
  | swapped
  deriving DecidableEq, Repr, Inhabited

/-- Which nibble of a three-field word (formats RRR, IRR) holds which operand (`FIELD_MAP`, R87,
D1, D2). The digits are the operands found in bits 3..0, 7..4 and 11..8, in that order. -/
inductive FieldOrder3 where
  /-- Operand k in nibble k-1: the spec's default. -/
  | ops123
  | ops132
  | ops213
  | ops231
  | ops312
  | ops321
  deriving DecidableEq, Repr, Inhabited

/-- `FIELD_MAP`: one permutation for each format whose fields the manual does not assign (R87).
Log entry 10. -/
structure FieldMap where
  rr  : FieldOrder2
  rrr : FieldOrder3
  irr : FieldOrder3
  deriving DecidableEq, Repr, Inhabited

/-- The k-th operand of the assembler syntax in the k-th field counting from bit 0 (D1, D2). -/
def FieldMap.default : FieldMap := ⟨.inOrder, .ops123, .ops123⟩

/-- `STACK_CONVENTION`: whether SP addresses the top word or the free byte below it (D3). -/
inductive StackConvention where
  /-- Push writes SP-1, SP-2; pop reads SP, SP+1. -/
  | fullDescending
  /-- Push writes SP, SP-1; pop reads SP+1, SP+2. -/
  | emptyDescending
  deriving DecidableEq, Repr, Inhabited

/-- `ADDR_WRAP`: an address computation past 0xFFFF or below 0x0000 (D4, U15). -/
inductive AddrWrap where
  | wrap
  | fault
  deriving DecidableEq, Repr, Inhabited

/-- `CARRY_NEG`: C after NEG (D11). `any` is the treatment U11 gives a model that errs toward
unprovable; so also for the four types below. -/
inductive CarryNeg where
  /-- C = (operand is not 0). -/
  | borrow
  /-- C = 0. -/
  | zero
  /-- C = (operand is 0x8000). -/
  | overflow
  | any
  deriving DecidableEq, Repr, Inhabited

/-- `ABS_MODEL`: C after ABS (D12). -/
inductive AbsModel where
  /-- C = 0. -/
  | zero
  /-- C as for NEG when the operand is negative, else 0. -/
  | likeNeg
  | any
  deriving DecidableEq, Repr, Inhabited

/-- `CARRY_MUL`: C after MUL and MULQ (D13). -/
inductive CarryMul where
  /-- C = (the unsigned product is 2^16 or more). -/
  | unsignedOverflow
  /-- C = (the signed product is no 16-bit two's-complement integer). -/
  | signedOverflow
  /-- C = 0. -/
  | zero
  | any
  deriving DecidableEq, Repr, Inhabited

/-- `DIV_OVERFLOW`: 0x8000 by 0xFFFF when division is signed (D16). -/
inductive DivOverflow where
  /-- Quotient 0x8000, remainder 0x0000. -/
  | wrap
  | fault
  deriving DecidableEq, Repr, Inhabited

/-- `CARRY_DIV`: C after DIV, DIVQ, MOD and MODQ (D17). -/
inductive CarryDiv where
  /-- C = 0. -/
  | zero
  | any
  deriving DecidableEq, Repr, Inhabited

/-- `CARRY_SAL`: C after SAL and SALQ (D18). -/
inductive CarrySal where
  /-- The last bit shifted out of bit 15, 0 for count 0 and for a count above 16. -/
  | lastOut
  /-- The OR of all bits shifted out. -/
  | orOut
  /-- C = 0. -/
  | zero
  | any
  deriving DecidableEq, Repr, Inhabited

/-- `SHIFT_COUNT_MODE`: a register shift count of 16 or more (R176, D19). -/
inductive ShiftCountMode where
  /-- The whole 16-bit count. -/
  | full
  /-- Only bits 3..0 of the count. -/
  | mod16
  deriving DecidableEq, Repr, Inhabited

/-- `MOV_DIRECTION`: which operand of MOV is the destination (R124, D20). -/
inductive MovDirection where
  | secondIsDestination
  | firstIsDestination
  deriving DecidableEq, Repr, Inhabited

/-- `IN_AT_EOF`: IN when no byte is left (R243, D22). -/
inductive InAtEof where
  | fault
  /-- IN blocks for ever: a stuck state. -/
  | block
  deriving DecidableEq, Repr, Inhabited

/-- The configuration of a run: the parameters of R6, fixed while the run lasts. `DIV_BY_ZERO` has
one admitted value (D15) and no field; `RESET_STATE` (a `ResetState`) and `INITIAL_MEMORY` settle only
how a run starts and are arguments of `Machine.State.start`. Log entry 1. -/
structure Config where
  fieldMap        : FieldMap
  stackConvention : StackConvention
  addrWrap        : AddrWrap
  carryNeg        : CarryNeg
  absModel        : AbsModel
  carryMul        : CarryMul
  /-- `DIV_SIGNED` (D14). -/
  divSigned       : Bool
  divOverflow     : DivOverflow
  carryDiv        : CarryDiv
  carrySal        : CarrySal
  shiftCountMode  : ShiftCountMode
  movDirection    : MovDirection
  inAtEof         : InAtEof
  /-- `DEBUG_MODE` (R39, D23). -/
  debugMode       : Bool
  deriving DecidableEq, Repr

/-- The spec's defaults (table of R6) with the one parameter the spec leaves open (D19) given. -/
def Config.defaults (mode : ShiftCountMode) : Config where
  fieldMap        := FieldMap.default
  stackConvention := .fullDescending
  addrWrap        := .wrap
  carryNeg        := .borrow
  absModel        := .zero
  carryMul        := .unsignedOverflow
  divSigned       := true
  divOverflow     := .wrap
  carryDiv        := .zero
  carrySal        := .lastOut
  shiftCountMode  := mode
  movDirection    := .secondIsDestination
  inAtEof         := .fault
  debugMode       := false

/-- `RESET_STATE`: the registers, the program counter and the flags when execution starts (D7). Any
value is admitted (R6). -/
structure ResetState where
  /-- R0..R15. -/
  regs   : Vector Word 16
  pc     : Word
  flagZ  : Bool
  flagN  : Bool
  flagC  : Bool
  /-- H. -/
  halted : Bool
  deriving DecidableEq, Repr

/-- The spec's default `RESET_STATE` (R42, D7): pc and the flags 0, SP 0xFFFF. R0..R14 it leaves
unspecified (U7): they are those of `regs`, whose R15 is not used. -/
def ResetState.defaults (regs : Vector Word 16) : ResetState where
  regs   := regs.set 15 0xFFFF#16
  pc     := 0x0000#16
  flagZ  := false
  flagN  := false
  flagC  := false
  halted := false

/-- DESIGN CHOICE (log entry 5), safe: `SHIFT_COUNT_MODE` is OPEN (D19), so the mode of the reset
state has no value a proof could use. -/
opaque Config.openShiftCountMode : ShiftCountMode

/-- Free word number n of a run: R15 after POP R15 (U9), the target of EXEC R15 (U10). Log entries
6 and 7. -/
opaque Config.freeWord : Nat → Word

/-- Free bit number n of a run: C under the value `any` of a carry parameter (U11). Log entry 8. -/
opaque Config.freeBit : Nat → Bool

/-- Free text number n of a run: what REGS and DUMP print in debugging mode (U6). Log entry 11. -/
opaque Config.freeText : Nat → List Byte

end Sys2Proof
end

