-- ==== Sys2Proof/Syntax.lean ====
section
/-! DEFINITION. The instructions: one constructor for each of the 61 rows of the opcode map (R88),
operands in the order of the assembler syntax (R87). -/

namespace Sys2Proof

/-- The eight instruction formats (R82 to R85; IRR by C3). -/
inductive Format where
  | op | x | r | rx | rr | ir | rrr | irr
  deriving DecidableEq, Repr

/-- An instruction of TINY (R88). -/
inductive Instr where
  /-- HALT, format OP (R230). -/
  | halt
  /-- B, format X (R200). -/
  | b (imm : Word)
  /-- BEQ, format X (R201). -/
  | beq (imm : Word)
  /-- BNE, format X (R202). -/
  | bne (imm : Word)
  /-- BLT, format X (R203). -/
  | blt (imm : Word)
  /-- BLE, format X (R204). -/
  | ble (imm : Word)
  /-- BGE, format X (R205). -/
  | bge (imm : Word)
  /-- BGT, format X (R206). -/
  | bgt (imm : Word)
  /-- BLTU, format X (R207). -/
  | bltu (imm : Word)
  /-- BLEU, format X (R208). -/
  | bleu (imm : Word)
  /-- BGEU, format X (R209). -/
  | bgeu (imm : Word)
  /-- BGTU, format X (R210). -/
  | bgtu (imm : Word)
  /-- CALL, format X (R212). -/
  | call (imm : Word)
  /-- RET, format OP (R214). -/
  | ret
  /-- REGS, format OP (R232). -/
  | regs
  /-- DUMP, format OP (R233). -/
  | dump
  /-- LI, format RX (R111). -/
  | li (r : Reg) (imm : Word)
  /-- LB, format RX (R112). -/
  | lb (r : Reg) (imm : Word)
  /-- LW, format RX (R113). -/
  | lw (r : Reg) (imm : Word)
  /-- STB, format RX (R114). -/
  | stb (r : Reg) (imm : Word)
  /-- STW, format RX (R115). -/
  | stw (r : Reg) (imm : Word)
  /-- NOT, format R (R185). -/
  | not (r : Reg)
  /-- NEG, format R (R140). -/
  | neg (r : Reg)
  /-- ABS, format R (R141). -/
  | abs (r : Reg)
  /-- EXT, format R (R142). -/
  | ext (r : Reg)
  /-- PUSH, format R (R120). -/
  | push (r : Reg)
  /-- POP, format R (R121). -/
  | pop (r : Reg)
  /-- IN, format R (R122). -/
  | inp (r : Reg)
  /-- OUT, format R (R123). -/
  | out (r : Reg)
  /-- JUMP, format R (R211). -/
  | jump (r : Reg)
  /-- EXEC, format R (R213). -/
  | exec (r : Reg)
  /-- MOV, format RR (R124). -/
  | mov (rs rt : Reg)
  /-- CMP, format RR (R143). -/
  | cmp (r1 r2 : Reg)
  /-- LDQ, format IR (R110). -/
  | ldq (r : Reg) (value : Nibble)
  /-- CMPQ, format IR (R144). -/
  | cmpq (r : Reg) (value : Nibble)
  /-- ADDQ, format IR (R146). -/
  | addq (r : Reg) (value : Nibble)
  /-- SUBQ, format IR (R148). -/
  | subq (r : Reg) (value : Nibble)
  /-- MULQ, format IR (R150). -/
  | mulq (r : Reg) (value : Nibble)
  /-- DIVQ, format IR (R152). -/
  | divq (r : Reg) (value : Nibble)
  /-- MODQ, format IR (R154). -/
  | modq (r : Reg) (value : Nibble)
  /-- ANDQ, format IR (R187). -/
  | andq (r : Reg) (value : Nibble)
  /-- ORQ, format IR (R189). -/
  | orq (r : Reg) (value : Nibble)
  /-- XORQ, format IR (R191). -/
  | xorq (r : Reg) (value : Nibble)
  /-- SALQ, format IR (R171). -/
  | salq (r : Reg) (count : Nibble)
  /-- SARQ, format IR (R173). -/
  | sarq (r : Reg) (count : Nibble)
  /-- SLRQ, format IR (R175). -/
  | slrq (r : Reg) (count : Nibble)
  /-- LBX, format IRR (R116). -/
  | lbx (r rx : Reg) (offset : Nibble)
  /-- LWX, format IRR (R117). -/
  | lwx (r rx : Reg) (offset : Nibble)
  /-- STBX, format IRR (R118). -/
  | stbx (r rx : Reg) (offset : Nibble)
  /-- STWX, format IRR (R119). -/
  | stwx (r rx : Reg) (offset : Nibble)
  /-- ADD, format RRR (R145). -/
  | add (r1 r2 rt : Reg)
  /-- SUB, format RRR (R147). -/
  | sub (r1 r2 rt : Reg)
  /-- MUL, format RRR (R149). -/
  | mul (r1 r2 rt : Reg)
  /-- DIV, format RRR (R151). -/
  | div (r1 r2 rt : Reg)
  /-- MOD, format RRR (R153). -/
  | mod (r1 r2 rt : Reg)
  /-- AND, format RRR (R186). -/
  | and (r1 r2 rt : Reg)
  /-- OR, format RRR (R188). -/
  | or (r1 r2 rt : Reg)
  /-- XOR, format RRR (R190). -/
  | xor (r1 r2 rt : Reg)
  /-- SAL, format RRR (R170). -/
  | sal (r1 r2 rt : Reg)
  /-- SAR, format RRR (R172). -/
  | sar (r1 r2 rt : Reg)
  /-- SLR, format RRR (R174). -/
  | slr (r1 r2 rt : Reg)
  deriving DecidableEq, Repr

/-- The format of each instruction (R88). -/
def Instr.format : Instr → Format
  | .halt | .ret | .regs | .dump => .op
  | .b _ | .beq _ | .bne _ | .blt _ | .ble _ | .bge _ | .bgt _ | .bltu _ | .bleu _ | .bgeu _
  | .bgtu _ | .call _ => .x
  | .li _ _ | .lb _ _ | .lw _ _ | .stb _ _ | .stw _ _ => .rx
  | .not _ | .neg _ | .abs _ | .ext _ | .push _ | .pop _ | .inp _ | .out _ | .jump _ | .exec _ => .r
  | .mov _ _ | .cmp _ _ => .rr
  | .ldq _ _ | .cmpq _ _ | .addq _ _ | .subq _ _ | .mulq _ _ | .divq _ _ | .modq _ _
  | .andq _ _ | .orq _ _ | .xorq _ _ | .salq _ _ | .sarq _ _ | .slrq _ _ => .ir
  | .lbx _ _ _ | .lwx _ _ _ | .stbx _ _ _ | .stwx _ _ _ => .irr
  | .add _ _ _ | .sub _ _ _ | .mul _ _ _ | .div _ _ _ | .mod _ _ _ | .and _ _ _ | .or _ _ _
  | .xor _ _ _ | .sal _ _ _ | .sar _ _ _ | .slr _ _ _ => .rrr

/-- Words of an instruction of a format: two for X and RX, one for the others (R80). -/
def Format.words : Format → Nat
  | .x | .rx => 2
  | .op | .r | .rr | .ir | .rrr | .irr => 1

/-- The length of an instruction in bytes (R80, R81). -/
def Instr.length (i : Instr) : Nat := 2 * i.format.words

/-- The mnemonic of the Quick Reference table (R88, R92). -/
def Instr.mnemonic : Instr → String
  | .halt => "HALT"
  | .b _ => "B"
  | .beq _ => "BEQ"
  | .bne _ => "BNE"
  | .blt _ => "BLT"
  | .ble _ => "BLE"
  | .bge _ => "BGE"
  | .bgt _ => "BGT"
  | .bltu _ => "BLTU"
  | .bleu _ => "BLEU"
  | .bgeu _ => "BGEU"
  | .bgtu _ => "BGTU"
  | .call _ => "CALL"
  | .ret => "RET"
  | .regs => "REGS"
  | .dump => "DUMP"
  | .li _ _ => "LI"
  | .lb _ _ => "LB"
  | .lw _ _ => "LW"
  | .stb _ _ => "STB"
  | .stw _ _ => "STW"
  | .not _ => "NOT"
  | .neg _ => "NEG"
  | .abs _ => "ABS"
  | .ext _ => "EXT"
  | .push _ => "PUSH"
  | .pop _ => "POP"
  | .inp _ => "IN"
  | .out _ => "OUT"
  | .jump _ => "JUMP"
  | .exec _ => "EXEC"
  | .mov _ _ => "MOV"
  | .cmp _ _ => "CMP"
  | .ldq _ _ => "LDQ"
  | .cmpq _ _ => "CMPQ"
  | .addq _ _ => "ADDQ"
  | .subq _ _ => "SUBQ"
  | .mulq _ _ => "MULQ"
  | .divq _ _ => "DIVQ"
  | .modq _ _ => "MODQ"
  | .andq _ _ => "ANDQ"
  | .orq _ _ => "ORQ"
  | .xorq _ _ => "XORQ"
  | .salq _ _ => "SALQ"
  | .sarq _ _ => "SARQ"
  | .slrq _ _ => "SLRQ"
  | .lbx _ _ _ => "LBX"
  | .lwx _ _ _ => "LWX"
  | .stbx _ _ _ => "STBX"
  | .stwx _ _ _ => "STWX"
  | .add _ _ _ => "ADD"
  | .sub _ _ _ => "SUB"
  | .mul _ _ _ => "MUL"
  | .div _ _ _ => "DIV"
  | .mod _ _ _ => "MOD"
  | .and _ _ _ => "AND"
  | .or _ _ _ => "OR"
  | .xor _ _ _ => "XOR"
  | .sal _ _ _ => "SAL"
  | .sar _ _ _ => "SAR"
  | .slr _ _ _ => "SLR"

/-- The other names a page prints for an instruction (R93). -/
def Instr.aliases : Instr → List String
  | .beq _ => ["BE", "BZ"]
  | .bne _ => ["BNZ"]
  | .blt _ => ["BL"]
  | .bgt _ => ["BG"]
  | .bltu _ => ["BLU", "BC"]
  | .bgtu _ => ["BGU"]
  | .bgeu _ => ["BNC"]
  | .salq _ _ => ["SLLQ"]
  | _ => []

end Sys2Proof
end

