-- ==== Sys2Proof/WellFormed.lean ====
section
/-! DEFINITION. Well-formed instructions. Every field value is legal (R20, R89, R91) and the types of
`Instr` admit no other, so the one check is the one the spec gives: U9 and U10 have a model not accept
the two forms whose result the manual leaves unspecified. The machine runs them all the same, with a
free value in the unspecified place (log entries 6 and 7); the decoder and the encoder cover them. -/

namespace Sys2Proof

/-- POP R15: the popped word and SP + 2 are both written to R15 (U9, R121). -/
def Instr.isPopSp : Instr → Bool
  | .pop r => r == SP
  | _ => false

/-- EXEC R15: the target is the old or the new SP (U10, R213). -/
def Instr.isExecSp : Instr → Bool
  | .exec r => r == SP
  | _ => false

/-- An instruction all of whose results the spec states. -/
def Instr.wellFormed (i : Instr) : Bool := !i.isPopSp && !i.isExecSp

end Sys2Proof
end

