-- ==== Sys2Proof/Decode.lean ====
section
/-! DEFINITION. Byte order and bit fields, the decoder (R80 to R91) and, after it, the encoder (R90). -/

namespace Sys2Proof

/-- Bits 7..0 of a word (R11). -/
def lowByte (w : Word) : Byte := w.extractLsb' 0 8

/-- Bits 15..8 of a word (R11). -/
def highByte (w : Word) : Byte := w.extractLsb' 8 8

/-- The word with the byte at the lower address in bits 7..0 (R52, R54). -/
def joinBytes (lo hi : Byte) : Word := hi ++ lo

/-- Hex digit k of a word, digit 0 in bits 3..0 (R86). -/
def nibble (w : Word) (k : Nat) : Nibble := w.extractLsb' (4 * k) 4

/-- The word of four hex digits, most significant first (R90). -/
def packNibbles (n3 n2 n1 n0 : Nibble) : Word := n3 ++ n2 ++ n1 ++ n0

/-- Operands 1 and 2 of a two-field word from its nibbles 0 and 1 (R87). -/
def FieldOrder2.pick : FieldOrder2 → Nibble → Nibble → Nibble × Nibble
  | .inOrder, n0, n1 => (n0, n1)
  | .swapped, n0, n1 => (n1, n0)

/-- Nibbles 0 and 1 of a two-field word from its operands 1 and 2 (R87). -/
def FieldOrder2.place : FieldOrder2 → Nibble → Nibble → Nibble × Nibble
  | .inOrder, a, b => (a, b)
  | .swapped, a, b => (b, a)

/-- Operands 1, 2 and 3 of a three-field word from its nibbles 0, 1 and 2 (R87). -/
def FieldOrder3.pick : FieldOrder3 → Nibble → Nibble → Nibble → Nibble × Nibble × Nibble
  | .ops123, n0, n1, n2 => (n0, n1, n2)
  | .ops132, n0, n1, n2 => (n0, n2, n1)
  | .ops213, n0, n1, n2 => (n1, n0, n2)
  | .ops231, n0, n1, n2 => (n2, n0, n1)
  | .ops312, n0, n1, n2 => (n1, n2, n0)
  | .ops321, n0, n1, n2 => (n2, n1, n0)

/-- Nibbles 0, 1 and 2 of a three-field word from its operands 1, 2 and 3 (R87). -/
def FieldOrder3.place : FieldOrder3 → Nibble → Nibble → Nibble → Nibble × Nibble × Nibble
  | .ops123, a, b, c => (a, b, c)
  | .ops132, a, b, c => (a, c, b)
  | .ops213, a, b, c => (b, a, c)
  | .ops231, a, b, c => (b, c, a)
  | .ops312, a, b, c => (c, a, b)
  | .ops321, a, b, c => (c, b, a)

/-- Whether an instruction has a second word, told from its first word alone (R81). -/
def hasSecondWord (w : Word) : Bool :=
  nibble w 3 == 0 && nibble w 2 == 0 &&
    if nibble w 1 == 0 then 1 ≤ (nibble w 0).toNat && (nibble w 0).toNat ≤ 12
    else (nibble w 1).toNat ≤ 5

/-- The OP/X group: w[15:4] = 0, opcode in w[3:0] (R88). -/
def decodeOpX (op : Nibble) (imm : Word) : Instr :=
  match op with
  | 0x0#4 => .halt
  | 0x1#4 => .b imm
  | 0x2#4 => .beq imm
  | 0x3#4 => .bne imm
  | 0x4#4 => .blt imm
  | 0x5#4 => .ble imm
  | 0x6#4 => .bge imm
  | 0x7#4 => .bgt imm
  | 0x8#4 => .bltu imm
  | 0x9#4 => .bleu imm
  | 0xA#4 => .bgeu imm
  | 0xB#4 => .bgtu imm
  | 0xC#4 => .call imm
  | 0xD#4 => .ret
  | 0xE#4 => .regs
  | _ => .dump

/-- The R/RX group: w[15:8] = 0, opcode in w[7:4], register in w[3:0] (R83, R88). -/
def decodeRRx (op : Nibble) (r : Reg) (imm : Word) : Instr :=
  match op with
  | 0x1#4 => .li r imm
  | 0x2#4 => .lb r imm
  | 0x3#4 => .lw r imm
  | 0x4#4 => .stb r imm
  | 0x5#4 => .stw r imm
  | 0x6#4 => .not r
  | 0x7#4 => .neg r
  | 0x8#4 => .abs r
  | 0x9#4 => .ext r
  | 0xA#4 => .push r
  | 0xB#4 => .pop r
  | 0xC#4 => .inp r
  | 0xD#4 => .out r
  | 0xE#4 => .jump r
  | _ => .exec r

/-- The RR/IR group: w[15:12] = 0, opcode in w[11:8]. IR has its register in w[3:0] and its immediate
in w[7:4] (R84); RR has its operands where `FIELD_MAP` says (R87). -/
def decodeRrIr (fm : FieldMap) (op n1 n0 : Nibble) : Instr :=
  let p := fm.rr.pick n0 n1
  match op with
  | 0x1#4 => .mov p.1 p.2
  | 0x2#4 => .cmp p.1 p.2
  | 0x3#4 => .ldq n0 n1
  | 0x4#4 => .cmpq n0 n1
  | 0x5#4 => .addq n0 n1
  | 0x6#4 => .subq n0 n1
  | 0x7#4 => .mulq n0 n1
  | 0x8#4 => .divq n0 n1
  | 0x9#4 => .modq n0 n1
  | 0xA#4 => .andq n0 n1
  | 0xB#4 => .orq n0 n1
  | 0xC#4 => .xorq n0 n1
  | 0xD#4 => .salq n0 n1
  | 0xE#4 => .sarq n0 n1
  | _ => .slrq n0 n1

/-- The RRR/IRR group: opcode in w[15:12], operands where `FIELD_MAP` says (R85, R87). -/
def decodeRrrIrr (fm : FieldMap) (op n2 n1 n0 : Nibble) : Instr :=
  let t := fm.rrr.pick n0 n1 n2
  let x := fm.irr.pick n0 n1 n2
  match op with
  | 0x1#4 => .lbx x.1 x.2.1 x.2.2
  | 0x2#4 => .lwx x.1 x.2.1 x.2.2
  | 0x3#4 => .stbx x.1 x.2.1 x.2.2
  | 0x4#4 => .stwx x.1 x.2.1 x.2.2
  | 0x5#4 => .add t.1 t.2.1 t.2.2
  | 0x6#4 => .sub t.1 t.2.1 t.2.2
  | 0x7#4 => .mul t.1 t.2.1 t.2.2
  | 0x8#4 => .div t.1 t.2.1 t.2.2
  | 0x9#4 => .mod t.1 t.2.1 t.2.2
  | 0xA#4 => .and t.1 t.2.1 t.2.2
  | 0xB#4 => .or t.1 t.2.1 t.2.2
  | 0xC#4 => .xor t.1 t.2.1 t.2.2
  | 0xD#4 => .sal t.1 t.2.1 t.2.2
  | 0xE#4 => .sar t.1 t.2.1 t.2.2
  | _ => .slr t.1 t.2.1 t.2.2

/-- Decoding is a cascade on the first word's hex digits and is total (R86, R91). `imm` is the second
word, used by formats X and RX only. -/
def decodeWords (fm : FieldMap) (w imm : Word) : Instr :=
  if nibble w 3 ≠ 0 then decodeRrrIrr fm (nibble w 3) (nibble w 2) (nibble w 1) (nibble w 0)
  else if nibble w 2 ≠ 0 then decodeRrIr fm (nibble w 2) (nibble w 1) (nibble w 0)
  else if nibble w 1 ≠ 0 then decodeRRx (nibble w 1) (nibble w 0) imm
  else decodeOpX (nibble w 0) imm

/-- Why a byte string holds no whole instruction. No word is illegal (R91), so only a string that ends
too early is rejected. -/
inductive DecodeError where
  /-- Fewer than two bytes. -/
  | truncatedFirstWord
  /-- The first word asks for a second one and fewer than four bytes are there. -/
  | truncatedSecondWord
  deriving DecidableEq, Repr

/-- The instruction at the head of a byte string, both its words little endian (R57), and the bytes
after it. -/
def decode (fm : FieldMap) : List Byte → Except DecodeError (Instr × List Byte)
  | b0 :: b1 :: rest =>
    if hasSecondWord (joinBytes b0 b1) then
      match rest with
      | b2 :: b3 :: rest' => .ok (decodeWords fm (joinBytes b0 b1) (joinBytes b2 b3), rest')
      | _ => .error .truncatedSecondWord
    else .ok (decodeWords fm (joinBytes b0 b1) 0, rest)
  | _ => .error .truncatedFirstWord

/-! The encoder. -/

/-- A word of format RR (R84, R87, R90). -/
def encodeRr (fm : FieldMap) (op a b : Nibble) : Word :=
  packNibbles 0 op (fm.rr.place a b).2 (fm.rr.place a b).1

/-- A word of format RRR (R85, R87, R90). -/
def encodeRrr (fm : FieldMap) (op a b t : Nibble) : Word :=
  packNibbles op (fm.rrr.place a b t).2.2 (fm.rrr.place a b t).2.1 (fm.rrr.place a b t).1

/-- A word of format IRR (R85, R87, R90). -/
def encodeIrr (fm : FieldMap) (op r x o : Nibble) : Word :=
  packNibbles op (fm.irr.place r x o).2.2 (fm.irr.place r x o).2.1 (fm.irr.place r x o).1

/-- The first word of an instruction (R88, R90). -/
def encodeFirst (fm : FieldMap) : Instr → Word
  | .halt => packNibbles 0 0 0 0x0
  | .b _ => packNibbles 0 0 0 0x1
  | .beq _ => packNibbles 0 0 0 0x2
  | .bne _ => packNibbles 0 0 0 0x3
  | .blt _ => packNibbles 0 0 0 0x4
  | .ble _ => packNibbles 0 0 0 0x5
  | .bge _ => packNibbles 0 0 0 0x6
  | .bgt _ => packNibbles 0 0 0 0x7
  | .bltu _ => packNibbles 0 0 0 0x8
  | .bleu _ => packNibbles 0 0 0 0x9
  | .bgeu _ => packNibbles 0 0 0 0xA
  | .bgtu _ => packNibbles 0 0 0 0xB
  | .call _ => packNibbles 0 0 0 0xC
  | .ret => packNibbles 0 0 0 0xD
  | .regs => packNibbles 0 0 0 0xE
  | .dump => packNibbles 0 0 0 0xF
  | .li r _ => packNibbles 0 0 0x1 r
  | .lb r _ => packNibbles 0 0 0x2 r
  | .lw r _ => packNibbles 0 0 0x3 r
  | .stb r _ => packNibbles 0 0 0x4 r
  | .stw r _ => packNibbles 0 0 0x5 r
  | .not r => packNibbles 0 0 0x6 r
  | .neg r => packNibbles 0 0 0x7 r
  | .abs r => packNibbles 0 0 0x8 r
  | .ext r => packNibbles 0 0 0x9 r
  | .push r => packNibbles 0 0 0xA r
  | .pop r => packNibbles 0 0 0xB r
  | .inp r => packNibbles 0 0 0xC r
  | .out r => packNibbles 0 0 0xD r
  | .jump r => packNibbles 0 0 0xE r
  | .exec r => packNibbles 0 0 0xF r
  | .mov a b => encodeRr fm 0x1 a b
  | .cmp a b => encodeRr fm 0x2 a b
  | .ldq r v => packNibbles 0 0x3 v r
  | .cmpq r v => packNibbles 0 0x4 v r
  | .addq r v => packNibbles 0 0x5 v r
  | .subq r v => packNibbles 0 0x6 v r
  | .mulq r v => packNibbles 0 0x7 v r
  | .divq r v => packNibbles 0 0x8 v r
  | .modq r v => packNibbles 0 0x9 v r
  | .andq r v => packNibbles 0 0xA v r
  | .orq r v => packNibbles 0 0xB v r
  | .xorq r v => packNibbles 0 0xC v r
  | .salq r v => packNibbles 0 0xD v r
  | .sarq r v => packNibbles 0 0xE v r
  | .slrq r v => packNibbles 0 0xF v r
  | .lbx r x o => encodeIrr fm 0x1 r x o
  | .lwx r x o => encodeIrr fm 0x2 r x o
  | .stbx r x o => encodeIrr fm 0x3 r x o
  | .stwx r x o => encodeIrr fm 0x4 r x o
  | .add a b t => encodeRrr fm 0x5 a b t
  | .sub a b t => encodeRrr fm 0x6 a b t
  | .mul a b t => encodeRrr fm 0x7 a b t
  | .div a b t => encodeRrr fm 0x8 a b t
  | .mod a b t => encodeRrr fm 0x9 a b t
  | .and a b t => encodeRrr fm 0xA a b t
  | .or a b t => encodeRrr fm 0xB a b t
  | .xor a b t => encodeRrr fm 0xC a b t
  | .sal a b t => encodeRrr fm 0xD a b t
  | .sar a b t => encodeRrr fm 0xE a b t
  | .slr a b t => encodeRrr fm 0xF a b t

/-- The second word of an instruction of format X or RX (R82, R83). -/
def secondWord : Instr → Option Word
  | .b imm | .beq imm | .bne imm | .blt imm | .ble imm | .bge imm | .bgt imm => some imm
  | .bltu imm | .bleu imm | .bgeu imm | .bgtu imm | .call imm => some imm
  | .li _ imm | .lb _ imm | .lw _ imm | .stb _ imm | .stw _ imm => some imm
  | .halt | .ret | .regs | .dump => none
  | .not _ | .neg _ | .abs _ | .ext _ | .push _ | .pop _ | .inp _ | .out _ | .jump _ | .exec _ => none
  | .mov _ _ | .cmp _ _ | .ldq _ _ | .cmpq _ _ | .addq _ _ | .subq _ _ | .mulq _ _ | .divq _ _ => none
  | .modq _ _ | .andq _ _ | .orq _ _ | .xorq _ _ | .salq _ _ | .sarq _ _ | .slrq _ _ => none
  | .lbx _ _ _ | .lwx _ _ _ | .stbx _ _ _ | .stwx _ _ _ => none
  | .add _ _ _ | .sub _ _ _ | .mul _ _ _ | .div _ _ _ | .mod _ _ _ | .and _ _ _ | .or _ _ _ => none
  | .xor _ _ _ | .sal _ _ _ | .sar _ _ _ | .slr _ _ _ => none

/-- The words of an instruction (R80, R90). -/
def encode (fm : FieldMap) (i : Instr) : List Word := encodeFirst fm i :: (secondWord i).toList

/-- Words as bytes at rising addresses, each little endian (R52, R57). -/
def wordBytes : List Word → List Byte
  | [] => []
  | w :: ws => lowByte w :: highByte w :: wordBytes ws

/-- The instruction the decoder reads, under the default `FIELD_MAP`, from the low nbits bits of w:
bits 15..0 the first word, bits 31..16 the second, every bit from nbits up taken as 0. -/
def decodeTableWord (nbits w : Nat) : Option Instr :=
  let v := w % 2 ^ nbits
  match decode FieldMap.default (wordBytes [BitVec.ofNat 16 v, BitVec.ofNat 16 (v / 2 ^ 16)]) with
  | .ok (i, _) => some i
  | .error _ => none

end Sys2Proof
end

