-- ==== Sys2Proof/Machine/State.lean ====
section
/-! DEFINITION. The state of the machine (R43), the reasons a step can stop (R241), and reset (R42). -/

namespace Sys2Proof.Machine

/-- Memory: (address, byte) pairs, addresses strictly rising and below 2^16, no pair holding the byte
an unlisted address reads as (R50; the form is `Memory.wf`). -/
abbrev Memory := List Host.Cell

/-- The complete architectural state (R43), the run's configuration (R6) and the model's own count of
the free values drawn. -/
structure State where
  /-- R0..R15 (R20); R15 is SP (R21). -/
  regs     : Vector Word 16
  /-- The program counter (R24). -/
  pc       : Word
  /-- Z of the PSW (R27, R28). -/
  flagZ    : Bool
  /-- N of the PSW (R27, R29). -/
  flagN    : Bool
  /-- C of the PSW (R27, R30). -/
  flagC    : Bool
  /-- H, the halted flag, outside the PSW (R34). -/
  halted   : Bool
  /-- The 65536 bytes of memory (R35, R50). -/
  mem      : Memory
  /-- The host's input bytes, those read included (R37). -/
  stdin    : List Byte
  /-- The read position of standard input (R37, R41). -/
  stdinPos : Nat
  /-- The bytes written so far, oldest first (R38). -/
  stdout   : List Byte
  /-- The parameters of R6, fixed for the run. DESIGN CHOICE, log entry 1. -/
  config   : Config
  /-- The model's own: how many free values the run has drawn. DESIGN CHOICE, log entry 9. -/
  draws    : Nat
  deriving DecidableEq, Repr

/-- The model-level faults (R241): a stop at the instruction at `address`, which has had no effect;
`left` is the machine as the fault leaves it, pc past the instruction (log entry 16). A fault is a stop
of the model and no hardware event (D25). -/
inductive Fault where
  /-- Raised by DIV, DIVQ, MOD, MODQ on divisor 0 (R242). Safe: the spec forbids a value. -/
  | divideByZero (address : Word) (left : State)
  /-- Raised by IN with no byte left, under `IN_AT_EOF` = fault (R243). Safe. -/
  | inputExhausted (address : Word) (left : State)
  /-- IN with no byte left under `IN_AT_EOF` = block: a stuck state (R243, U5). Safe. Log entry 14. -/
  | inputBlocked (address : Word) (left : State)
  /-- Raised by DIV, DIVQ, MOD, MODQ on 0x8000 by 0xFFFF, under `DIV_OVERFLOW` = fault (D16). Safe. -/
  | divideOverflow (address : Word) (left : State)
  /-- Raised under `ADDR_WRAP` = fault by an instruction that computes an address past 0xFFFF or below
  0x0000, and by fetching one that runs past 0xFFFF (D4, U15). Safe. Log entry 13. -/
  | addressWrap (address : Word) (left : State)
  deriving DecidableEq, Repr

/-- Reasons to give an instruction no meaning. -/
inductive Refusal where
  /-- An instruction whose arm of `exec` has no meaning yet; no arm answers it now. Safe. -/
  | notModelled (mnemonic : String)
  deriving DecidableEq, Repr

/-- The start state for what the host supplies (R42, R256, R270): the configuration, `RESET_STATE`
(D7), the memory image (`INITIAL_MEMORY`, D8) and the input bytes. -/
def State.start (config : Config) (init : ResetState) (image : Memory) (input : List Byte) :
    State where
  regs     := init.regs
  pc       := init.pc
  flagZ    := init.flagZ
  flagN    := init.flagN
  flagC    := init.flagC
  halted   := init.halted
  mem      := image
  stdin    := input
  stdinPos := 0
  stdout   := []
  config   := config
  draws    := 0

/-- The machine right after reset (R42): the spec's default configuration with `SHIFT_COUNT_MODE` open,
the default `RESET_STATE`, no program, no input. DESIGN CHOICE, unsafe: R0..R14 hold 0 (log entry 2), no
memory byte is listed (log entry 3), the input is empty (log entry 4). -/
def State.reset : State :=
  State.start (Config.defaults Config.openShiftCountMode)
    (ResetState.defaults (Vector.replicate 16 0x0000#16)) [] []

end Sys2Proof.Machine
end

