-- ==== Sys2Proof/Machine/Ops.lean ====
section
/-! DEFINITION. The named operations over memory, registers, streams and free values, the stack
primitives, and raising a fault. -/

namespace Sys2Proof.Machine

/-! Memory (R50 to R60). -/

/-- What an unlisted address reads as. DESIGN CHOICE, unsafe, log entry 3: the host's image is the
spec's initial memory (D8) and every image is a `Memory`; the bytes no image lists read 0x00. -/
def Memory.unlisted : Byte := 0x00#8

/-- The byte at an address (R53). -/
def Memory.read : Memory → Nat → Byte
  | [], _ => Memory.unlisted
  | (k, b) :: m, a => if k = a then b else Memory.read m a

/-- Memory without the cell of an address. -/
def Memory.erase : Memory → Nat → Memory
  | [], _ => []
  | (k, c) :: m, a => if k = a then Memory.erase m a else (k, c) :: Memory.erase m a

/-- Put a cell before the first cell of a higher address. -/
def Memory.insert : Memory → Nat → Byte → Memory
  | [], a, b => [(a, b)]
  | (k, c) :: m, a, b => if a < k then (a, b) :: (k, c) :: m else (k, c) :: Memory.insert m a b

/-- Set the byte at an address and change nothing else (R55); the unlisted byte is not listed, so that
equal memories are equal lists. -/
def Memory.write (m : Memory) (a : Nat) (b : Byte) : Memory :=
  if b = Memory.unlisted then Memory.erase m a else Memory.insert (Memory.erase m a) a b

/-- Addresses from `lo` up strictly rising and below 2^16, no byte equal to the unlisted one. -/
def Memory.wfFrom : Nat → Memory → Bool
  | _, [] => true
  | lo, (k, b) :: m =>
    decide (lo ≤ k) && decide (k < 65536) && decide (b ≠ Memory.unlisted) && Memory.wfFrom (k + 1) m

/-- The canonical form of memory. -/
def Memory.wf (m : Memory) : Bool := Memory.wfFrom 0 m

/-- `MemRead(a, 1)` (R53). -/
def State.readByte (s : State) (a : Word) : Byte := Memory.read s.mem a.toNat

/-- `MemRead(a, 2)`: little endian, the second byte at a + 1 mod 2^16 (R54). -/
def State.readWord (s : State) (a : Word) : Word := joinBytes (s.readByte a) (s.readByte (a + 1))

/-- `MemWrite(a, 1, b)` (R55). -/
def State.writeByte (s : State) (a : Word) (b : Byte) : State :=
  { s with mem := Memory.write s.mem a.toNat b }

/-- `MemWrite(a, 2, v)`: low byte at a, high byte at a + 1 mod 2^16 (R56). -/
def State.writeWord (s : State) (a v : Word) : State :=
  (s.writeByte a (lowByte v)).writeByte (a + 1) (highByte v)

/-! Registers, program counter and flags. -/

/-- `x[r]` (R9, R20). -/
def State.reg (s : State) (r : Reg) : Word := s.regs[r.toNat]'r.isLt

/-- `x[r] <- v` (R9, R20). -/
def State.setReg (s : State) (r : Reg) (v : Word) : State :=
  { s with regs := s.regs.set r.toNat v r.isLt }

/-- `pc <- t` (R9). -/
def State.setPc (s : State) (t : Word) : State := { s with pc := t }

/-- pc past the words fetched, modulo 2^16 (R10, R25). -/
def State.advance (s : State) (bytes : Nat) : State := s.setPc (s.pc + BitVec.ofNat 16 bytes)

/-- `SetZN(v)` (R31). -/
def State.setZN (s : State) (v : Word) : State :=
  { s with flagZ := decide (v = 0#16), flagN := v.msb }

/-- `C <- c`; `none` is the value `any` of a carry parameter (U11): a free bit. Log entry 8. -/
def State.setCarry (s : State) : Option Bool → State
  | some c => { s with flagC := c }
  | none => { s with flagC := Config.freeBit s.draws, draws := s.draws + 1 }

/-! Free values. -/

/-- Give a register a free word (POP R15, U9). Log entry 6. -/
def State.setRegFree (s : State) (r : Reg) : State :=
  { s.setReg r (Config.freeWord s.draws) with draws := s.draws + 1 }

/-- Give pc a free word (EXEC R15, U10). Log entry 7. -/
def State.setPcFree (s : State) : State :=
  { s with pc := Config.freeWord s.draws, draws := s.draws + 1 }

/-! Streams. -/

/-- `StdinNext()`: the next byte and the machine past it, or nothing at the end (R37). -/
def State.nextInput (s : State) : Option (Byte × State) :=
  match s.stdin[s.stdinPos]? with
  | some b => some (b, { s with stdinPos := s.stdinPos + 1 })
  | none => none

/-- `StdoutPut(b)` (R38). -/
def State.putByte (s : State) (b : Byte) : State := { s with stdout := s.stdout ++ [b] }

/-- Append a display of unspecified text to standard output, if in debugging mode (R232, R233, U6).
Log entry 11. -/
def State.display (s : State) : State :=
  if s.config.debugMode then
    { s with stdout := s.stdout ++ Config.freeText s.draws, draws := s.draws + 1 }
  else s

/-! Faults (R241). -/

/-- The address of an instruction of so many bytes, from the pc advanced past it (R10). -/
def State.instrAddress (s : State) (bytes : Nat) : Word := s.pc - BitVec.ofNat 16 bytes

/-- Raise a fault in an instruction of so many bytes: nothing is changed by it, pc stays advanced, the
kind and the instruction's address are recorded (R241). TINY has no other exception and nothing that
returns from one (R247, R248). -/
def raise (kind : Word → State → Fault) (bytes : Nat) (s : State) :
    Host.Outcome State Fault Refusal :=
  .fault (kind (s.instrAddress bytes) s)

/-- Go on to `t` unless an address computation of the instruction wrapped and `ADDR_WRAP` stops it
(D4, U15). -/
def State.unlessWrap (s : State) (bytes : Nat) (wraps : Bool) (t : State) :
    Host.Outcome State Fault Refusal :=
  if s.config.addrWrap = .fault ∧ wraps = true then raise .addressWrap bytes s else .next t

/-- A word access at a has its second byte past 0xFFFF (U15). -/
def wordWraps (a : Word) : Bool := decide (a.toNat + 1 ≥ 65536)

/-! The stack primitives (R62, R63, D3). -/

/-- The address of the low byte of the word a push stores, for SP = `s` before it. -/
def pushAddress : StackConvention → Word → Word
  | .fullDescending, s => s - 2
  | .emptyDescending, s => s - 1

/-- The address of the low byte of the word a pop reads, for SP = `s` before it. -/
def popAddress : StackConvention → Word → Word
  | .fullDescending, s => s
  | .emptyDescending, s => s + 1

/-- Where this machine's next push stores. -/
def State.pushTarget (s : State) : Word := pushAddress s.config.stackConvention (s.reg SP)

/-- `Push16(v)` (R62). -/
def State.push (s : State) (v : Word) : State :=
  (s.writeWord s.pushTarget v).setReg SP (s.reg SP - 2)

/-- The word `Pop16()` returns (R63). -/
def State.popValue (s : State) : Word :=
  s.readWord (popAddress s.config.stackConvention (s.reg SP))

/-- SP after `Pop16()` (R63). -/
def State.popped (s : State) : State := s.setReg SP (s.reg SP + 2)

/-- SP - 2 falls below 0x0000 (U15). -/
def State.pushWraps (s : State) : Bool := decide ((s.reg SP).toNat < 2)

/-- SP + 2 passes 0xFFFF (U15). -/
def State.popWraps (s : State) : Bool := decide ((s.reg SP).toNat + 2 ≥ 65536)

/-! Fetch (R10, R57, R69). -/

/-- The four bytes at pc, pc + 1, pc + 2, pc + 3 mod 2^16: as many as the longest instruction has.
Reading memory changes nothing (R60), so reading bytes an instruction does not use is unseen. -/
def State.fetchBytes (s : State) : List Byte :=
  [s.readByte s.pc, s.readByte (s.pc + 1), s.readByte (s.pc + 2), s.readByte (s.pc + 3)]

/-- The instruction at pc (R10, R86). -/
def State.fetch (s : State) : Instr :=
  decodeWords s.config.fieldMap (s.readWord s.pc) (s.readWord (s.pc + 2))

/-- pc runs past 0xFFFF in fetching an instruction of so many bytes (R26, U15). -/
def State.fetchWraps (s : State) (bytes : Nat) : Bool := decide (s.pc.toNat + bytes ≥ 65536)

/-- The fault of fetching, if there is one: only under `ADDR_WRAP` = fault (U15). Log entry 13. -/
def State.fetchFault (s : State) : Option Fault :=
  if s.config.addrWrap = .fault ∧ s.fetchWraps s.fetch.length = true then
    some (.addressWrap s.pc s)
  else none

/-- The machine in which the fetched instruction executes: pc is past it (R10). -/
def State.fetched (s : State) : State := s.advance s.fetch.length

/-- The machine takes no step (R231). -/
def State.suspended (s : State) : Bool := s.halted

/-- Store two words at pc and pc + 2 and clear H: what it takes for them to be fetched next. -/
def State.placeWords (s : State) (w imm : Word) : State :=
  { (s.writeWord s.pc w).writeWord (s.pc + 2) imm with halted := false }

end Sys2Proof.Machine
end

