-- ==== Sys2Proof/Machine/Operands.lean ====
section
/-! DEFINITION. Operand forms: quick immediates, register plus offset, shift counts, byte to word. -/

namespace Sys2Proof.Machine

/-- `zext_16(imm4)` (R89). -/
def zextNibble (v : Nibble) : Word := BitVec.ofNat 16 v.toNat

/-- A byte zero-extended to a word (R112, R116, R122). -/
def zextByte (b : Byte) : Word := BitVec.ofNat 16 b.toNat

/-- `sext_16(b)`: bits 15..8 each become bit 7 (R142). -/
def sextByte (b : Byte) : Word := BitVec.ofInt 16 b.toInt

/-- The effective address of the indirect forms, `x[rx] + zext_16(off4)` mod 2^16 (R125). -/
def State.indexed (s : State) (rx : Reg) (offset : Nibble) : Word := s.reg rx + zextNibble offset

/-- The sum of R125 passes 0xFFFF (D4). -/
def State.indexedWraps (s : State) (rx : Reg) (offset : Nibble) : Bool :=
  decide ((s.reg rx).toNat + offset.toNat ≥ 65536)

/-- The shift count of a register form (R176). Below 16 the two modes agree. -/
def shiftCount (mode : ShiftCountMode) (v : Word) : Nat :=
  if v.toNat < 16 then v.toNat
  else match mode with
    | .full => v.toNat
    | .mod16 => v.toNat % 16

end Sys2Proof.Machine
end

