-- ==== Sys2Proof/Machine/Flags.lean ====
section
/-! DEFINITION. The arithmetic, shift and logic operations: the 16-bit result and C. Z and N come from
the result (R31, D33). C is `none` where a parameter has the value `any` (U11). -/

namespace Sys2Proof.Machine

/-- A result and the carry that goes with it. -/
structure AluResult where
  value : Word
  carry : Option Bool
  deriving DecidableEq, Repr

/-- `AddOp`: C is the carry out of bit 15 (R155). -/
def addOp (a b : Word) : AluResult :=
  { value := BitVec.ofNat 16 (a.toNat + b.toNat), carry := some (decide (a.toNat + b.toNat ≥ 65536)) }

/-- `SubOp`: C is the borrow (R156). -/
def subOp (a b : Word) : AluResult :=
  { value := BitVec.ofInt 16 ((a.toNat : Int) - b.toNat), carry := some (decide (a.toNat < b.toNat)) }

/-- C after NEG (D11). -/
def carryNeg (p : CarryNeg) (a : Word) : Option Bool :=
  match p with
  | .borrow => some (decide (a ≠ 0x0000#16))
  | .zero => some false
  | .overflow => some (decide (a = 0x8000#16))
  | .any => none

/-- NEG (R140). -/
def negOp (p : CarryNeg) (a : Word) : AluResult :=
  { value := BitVec.ofInt 16 (0 - (a.toNat : Int)), carry := carryNeg p a }

/-- C after ABS (D12); "as for NEG" is `CARRY_NEG`. DEDUCED, log entry 20. -/
def carryAbs (p : AbsModel) (neg : CarryNeg) (a : Word) : Option Bool :=
  match p with
  | .zero => some false
  | .likeNeg => if a.msb then carryNeg neg a else some false
  | .any => none

/-- ABS (R141). -/
def absOp (p : AbsModel) (neg : CarryNeg) (a : Word) : AluResult :=
  { value := if a.msb then BitVec.ofInt 16 (0 - (a.toNat : Int)) else a, carry := carryAbs p neg a }

/-- C after MUL and MULQ (D13); what signed overflow means is DEDUCED, log entry 21. -/
def carryMul (p : CarryMul) (a b : Word) : Option Bool :=
  match p with
  | .unsignedOverflow => some (decide (a.toNat * b.toNat ≥ 65536))
  | .signedOverflow => some (decide (a.toInt * b.toInt < -32768 ∨ a.toInt * b.toInt > 32767))
  | .zero => some false
  | .any => none

/-- `MulOp` (R157). -/
def mulOp (p : CarryMul) (a b : Word) : AluResult :=
  { value := BitVec.ofNat 16 (a.toNat * b.toNat), carry := carryMul p a b }

/-- Quotient and remainder of `DivOp` for a divisor that is not 0 (R158). The remainder has the sign of
the dividend when division is signed; 0x8000 by 0xFFFF then gives 0x8000 and 0x0000 (D16). -/
def divOp (signed : Bool) (a b : Word) : Word × Word :=
  if signed then (BitVec.ofInt 16 (a.toInt.tdiv b.toInt), BitVec.ofInt 16 (a.toInt.tmod b.toInt))
  else (BitVec.ofNat 16 (a.toNat / b.toNat), BitVec.ofNat 16 (a.toNat % b.toNat))

/-- 0x8000 by 0xFFFF, division being signed (R158). -/
def divOverflows (signed : Bool) (a b : Word) : Bool :=
  signed && decide (a = 0x8000#16) && decide (b = 0xFFFF#16)

/-- C after DIV, DIVQ, MOD and MODQ (D17). -/
def carryDiv : CarryDiv → Option Bool
  | .zero => some false
  | .any => none

/-- C after SAL and SALQ (R177, D18); OR of the bits shifted out is DEDUCED, log entry 22. -/
def carrySal (p : CarrySal) (a : Word) (n : Nat) : Option Bool :=
  match p with
  | .lastOut => some (decide (1 ≤ n ∧ n ≤ 16) && a.getLsbD (16 - n))
  | .orOut => some (if n < 16 then decide (a.toNat * 2 ^ n ≥ 65536) else decide (a ≠ 0#16))
  | .zero => some false
  | .any => none

/-- `ShlOp` (R177). -/
def shlOp (p : CarrySal) (a : Word) (n : Nat) : AluResult :=
  { value := if n < 16 then BitVec.ofNat 16 (a.toNat * 2 ^ n) else 0#16, carry := carrySal p a n }

/-- `SarOp` (R178). -/
def sarOp (a : Word) (n : Nat) : AluResult :=
  { value := if n < 15 then BitVec.ofInt 16 (a.toInt / 2 ^ n) else if a.msb then 0xFFFF#16 else 0#16,
    carry := some false }

/-- `SlrOp` (R179). -/
def slrOp (a : Word) (n : Nat) : AluResult :=
  { value := if n < 16 then BitVec.ofNat 16 (a.toNat / 2 ^ n) else 0#16, carry := some false }

/-- A result whose C is cleared: EXT and the logic family (R142, R192). -/
def clearedOp (v : Word) : AluResult := { value := v, carry := some false }

/-- Z, N and C from a result (R31, R32). -/
def State.setFlags (s : State) (x : AluResult) : State := (s.setZN x.value).setCarry x.carry

/-- Write a result to a register and set the flags from it. -/
def State.setResult (s : State) (r : Reg) (x : AluResult) : State := (s.setReg r x.value).setFlags x

/-- The shared body of DIV, DIVQ, MOD and MODQ (R158): the two faults, else write the quotient or the
remainder as `pick` says, and the flags from it. -/
def State.divide (s : State) (pick : Word × Word → Word) (r : Reg) (a b : Word) :
    Host.Outcome State Fault Refusal :=
  if b = 0#16 then raise .divideByZero 2 s
  else if divOverflows s.config.divSigned a b = true ∧ s.config.divOverflow = .fault then
    raise .divideOverflow 2 s
  else
    .next (s.setResult r
      { value := pick (divOp s.config.divSigned a b), carry := carryDiv s.config.carryDiv })

end Sys2Proof.Machine
end

