-- ==== Sys2Proof/Machine/Arithmetic.lean ====
section
/-! DEFINITION. Arithmetic instructions (spec/41_arithmetic.md). Each meaning runs
on the state whose pc is already past the instruction (R10); log entry 17. -/

namespace Sys2Proof.Machine

/-- NEG (R140). -/
def execNeg (r : Reg) (s : State) : Host.Outcome State Fault Refusal :=
  .next (s.setResult r (negOp s.config.carryNeg (s.reg r)))

/-- ABS (R141). -/
def execAbs (r : Reg) (s : State) : Host.Outcome State Fault Refusal :=
  .next (s.setResult r (absOp s.config.absModel s.config.carryNeg (s.reg r)))

/-- EXT: the low byte sign-extended, C cleared (R142). -/
def execExt (r : Reg) (s : State) : Host.Outcome State Fault Refusal :=
  .next (s.setResult r (clearedOp (sextByte (lowByte (s.reg r)))))

/-- CMP: r1 - r2, flags only (R143, C5). -/
def execCmp (r1 r2 : Reg) (s : State) : Host.Outcome State Fault Refusal :=
  .next (s.setFlags (subOp (s.reg r1) (s.reg r2)))

/-- CMPQ (R144). -/
def execCmpq (r : Reg) (value : Nibble) (s : State) : Host.Outcome State Fault Refusal :=
  .next (s.setFlags (subOp (s.reg r) (zextNibble value)))

/-- ADD (R145). -/
def execAdd (r1 r2 rt : Reg) (s : State) : Host.Outcome State Fault Refusal :=
  .next (s.setResult rt (addOp (s.reg r1) (s.reg r2)))

/-- ADDQ (R146). -/
def execAddq (r : Reg) (value : Nibble) (s : State) : Host.Outcome State Fault Refusal :=
  .next (s.setResult r (addOp (s.reg r) (zextNibble value)))

/-- SUB (R147). -/
def execSub (r1 r2 rt : Reg) (s : State) : Host.Outcome State Fault Refusal :=
  .next (s.setResult rt (subOp (s.reg r1) (s.reg r2)))

/-- SUBQ (R148). -/
def execSubq (r : Reg) (value : Nibble) (s : State) : Host.Outcome State Fault Refusal :=
  .next (s.setResult r (subOp (s.reg r) (zextNibble value)))

/-- MUL (R149). -/
def execMul (r1 r2 rt : Reg) (s : State) : Host.Outcome State Fault Refusal :=
  .next (s.setResult rt (mulOp s.config.carryMul (s.reg r1) (s.reg r2)))

/-- MULQ (R150). -/
def execMulq (r : Reg) (value : Nibble) (s : State) : Host.Outcome State Fault Refusal :=
  .next (s.setResult r (mulOp s.config.carryMul (s.reg r) (zextNibble value)))

/-- DIV: the quotient (R151). -/
def execDiv (r1 r2 rt : Reg) (s : State) : Host.Outcome State Fault Refusal :=
  s.divide Prod.fst rt (s.reg r1) (s.reg r2)

/-- DIVQ (R152). -/
def execDivq (r : Reg) (value : Nibble) (s : State) : Host.Outcome State Fault Refusal :=
  s.divide Prod.fst r (s.reg r) (zextNibble value)

/-- MOD: the remainder (R153). -/
def execMod (r1 r2 rt : Reg) (s : State) : Host.Outcome State Fault Refusal :=
  s.divide Prod.snd rt (s.reg r1) (s.reg r2)

/-- MODQ (R154). -/
def execModq (r : Reg) (value : Nibble) (s : State) : Host.Outcome State Fault Refusal :=
  s.divide Prod.snd r (s.reg r) (zextNibble value)

end Sys2Proof.Machine
end

