-- ==== Sys2Proof/Machine/Branch.lean ====
section
/-! DEFINITION. Branch, jump, call and return (spec/44_branch.md). No flag changes. Each meaning runs
on the state whose pc is already past the instruction (R10); log entry 17. -/

namespace Sys2Proof.Machine

/-- Go to an absolute address if the condition holds, else on to the next instruction (R216). -/
def State.branchIf (s : State) (taken : Bool) (target : Word) : State :=
  if taken then s.setPc target else s

/-- B (R200). -/
def execB (imm : Word) (s : State) : Host.Outcome State Fault Refusal :=
  .next (s.setPc imm)

/-- BEQ: taken if Z (R201). -/
def execBeq (imm : Word) (s : State) : Host.Outcome State Fault Refusal :=
  .next (s.branchIf s.flagZ imm)

/-- BNE: taken if not Z (R202). -/
def execBne (imm : Word) (s : State) : Host.Outcome State Fault Refusal :=
  .next (s.branchIf (!s.flagZ) imm)

/-- BLT: taken if N (R203). -/
def execBlt (imm : Word) (s : State) : Host.Outcome State Fault Refusal :=
  .next (s.branchIf s.flagN imm)

/-- BLE: taken if N or Z (R204). -/
def execBle (imm : Word) (s : State) : Host.Outcome State Fault Refusal :=
  .next (s.branchIf (s.flagN || s.flagZ) imm)

/-- BGE: taken if not N (R205). -/
def execBge (imm : Word) (s : State) : Host.Outcome State Fault Refusal :=
  .next (s.branchIf (!s.flagN) imm)

/-- BGT: taken if neither N nor Z (R206). -/
def execBgt (imm : Word) (s : State) : Host.Outcome State Fault Refusal :=
  .next (s.branchIf (!(s.flagN || s.flagZ)) imm)

/-- BLTU: taken if C (R207). -/
def execBltu (imm : Word) (s : State) : Host.Outcome State Fault Refusal :=
  .next (s.branchIf s.flagC imm)

/-- BLEU: taken if C or Z (R208). -/
def execBleu (imm : Word) (s : State) : Host.Outcome State Fault Refusal :=
  .next (s.branchIf (s.flagC || s.flagZ) imm)

/-- BGEU: taken if not C (R209). -/
def execBgeu (imm : Word) (s : State) : Host.Outcome State Fault Refusal :=
  .next (s.branchIf (!s.flagC) imm)

/-- BGTU: taken if neither C nor Z (R210). -/
def execBgtu (imm : Word) (s : State) : Host.Outcome State Fault Refusal :=
  .next (s.branchIf (!(s.flagC || s.flagZ)) imm)

/-- JUMP (R211). -/
def execJump (r : Reg) (s : State) : Host.Outcome State Fault Refusal :=
  .next (s.setPc (s.reg r))

/-- CALL: pushes the address after its second word (R212). -/
def execCall (imm : Word) (s : State) : Host.Outcome State Fault Refusal :=
  s.unlessWrap 4 s.pushWraps ((s.push s.pc).setPc imm)

/-- EXEC: the target is read before SP changes (R213, D28). The target of EXEC R15 is unspecified
(U10): a free word. Log entry 7. -/
def execExec (r : Reg) (s : State) : Host.Outcome State Fault Refusal :=
  s.unlessWrap 2 s.pushWraps
    (if r = SP then (s.push s.pc).setPcFree else (s.push s.pc).setPc (s.reg r))

/-- RET (R214). -/
def execRet (s : State) : Host.Outcome State Fault Refusal :=
  s.unlessWrap 2 s.popWraps (s.popped.setPc s.popValue)

end Sys2Proof.Machine
end

