-- ==== Sys2Proof/Machine/DataTransfer.lean ====
section
/-! DEFINITION. Data transfer instructions (spec/40_data_transfer.md). Each meaning runs
on the state whose pc is already past the instruction (R10); log entry 17. -/

namespace Sys2Proof.Machine

/-- LDQ (R110). -/
def execLdq (r : Reg) (value : Nibble) (s : State) : Host.Outcome State Fault Refusal :=
  .next (s.setReg r (zextNibble value))

/-- LI (R111). -/
def execLi (r : Reg) (imm : Word) (s : State) : Host.Outcome State Fault Refusal :=
  .next (s.setReg r imm)

/-- LB: zero-extending (R112). -/
def execLb (r : Reg) (imm : Word) (s : State) : Host.Outcome State Fault Refusal :=
  .next (s.setReg r (zextByte (s.readByte imm)))

/-- LW (R113). -/
def execLw (r : Reg) (imm : Word) (s : State) : Host.Outcome State Fault Refusal :=
  s.unlessWrap 4 (wordWraps imm) (s.setReg r (s.readWord imm))

/-- STB (R114). -/
def execStb (r : Reg) (imm : Word) (s : State) : Host.Outcome State Fault Refusal :=
  .next (s.writeByte imm (lowByte (s.reg r)))

/-- STW (R115). -/
def execStw (r : Reg) (imm : Word) (s : State) : Host.Outcome State Fault Refusal :=
  s.unlessWrap 4 (wordWraps imm) (s.writeWord imm (s.reg r))

/-- LBX (R116). -/
def execLbx (r rx : Reg) (offset : Nibble) (s : State) : Host.Outcome State Fault Refusal :=
  s.unlessWrap 2 (s.indexedWraps rx offset)
    (s.setReg r (zextByte (s.readByte (s.indexed rx offset))))

/-- LWX: both bytes come from the old address (R117, D28). -/
def execLwx (r rx : Reg) (offset : Nibble) (s : State) : Host.Outcome State Fault Refusal :=
  s.unlessWrap 2 (s.indexedWraps rx offset || wordWraps (s.indexed rx offset))
    (s.setReg r (s.readWord (s.indexed rx offset)))

/-- STBX (R118). -/
def execStbx (r rx : Reg) (offset : Nibble) (s : State) : Host.Outcome State Fault Refusal :=
  s.unlessWrap 2 (s.indexedWraps rx offset)
    (s.writeByte (s.indexed rx offset) (lowByte (s.reg r)))

/-- STWX (R119). -/
def execStwx (r rx : Reg) (offset : Nibble) (s : State) : Host.Outcome State Fault Refusal :=
  s.unlessWrap 2 (s.indexedWraps rx offset || wordWraps (s.indexed rx offset))
    (s.writeWord (s.indexed rx offset) (s.reg r))

/-- PUSH; PUSH R15 pushes the old SP (R120, D28). -/
def execPush (r : Reg) (s : State) : Host.Outcome State Fault Refusal :=
  s.unlessWrap 2 s.pushWraps (s.push (s.reg r))

/-- POP (R121). After POP R15 the value of R15 is unspecified (U9): a free word. Log entry 6. -/
def execPop (r : Reg) (s : State) : Host.Outcome State Fault Refusal :=
  s.unlessWrap 2 s.popWraps
    (if r = SP then s.setRegFree SP else s.popped.setReg r s.popValue)

/-- IN: one byte, zero-extended; at the end of the input the fault of `IN_AT_EOF` (R122, R243). -/
def execIn (r : Reg) (s : State) : Host.Outcome State Fault Refusal :=
  match s.nextInput with
  | some (b, t) => .next (t.setReg r (zextByte b))
  | none =>
    match s.config.inAtEof with
    | .fault => raise .inputExhausted 2 s
    | .block => raise .inputBlocked 2 s

/-- OUT (R123). -/
def execOut (r : Reg) (s : State) : Host.Outcome State Fault Refusal :=
  .next (s.putByte (lowByte (s.reg r)))

/-- MOV, in the direction of `MOV_DIRECTION`; no flags (R124). -/
def execMov (rs rt : Reg) (s : State) : Host.Outcome State Fault Refusal :=
  match s.config.movDirection with
  | .secondIsDestination => .next (s.setReg rt (s.reg rs))
  | .firstIsDestination => .next (s.setReg rs (s.reg rt))

end Sys2Proof.Machine
end

