-- ==== Sys2Proof/Machine/Logic.lean ====
section
/-! DEFINITION. Logic instructions (spec/43_logic.md); all clear C (R192). Each meaning runs
on the state whose pc is already past the instruction (R10); log entry 17. -/

namespace Sys2Proof.Machine

/-- NOT, in place (R185, C4). -/
def execNot (r : Reg) (s : State) : Host.Outcome State Fault Refusal :=
  .next (s.setResult r (clearedOp (~~~s.reg r)))

/-- AND (R186). -/
def execAnd (r1 r2 rt : Reg) (s : State) : Host.Outcome State Fault Refusal :=
  .next (s.setResult rt (clearedOp (s.reg r1 &&& s.reg r2)))

/-- ANDQ (R187). -/
def execAndq (r : Reg) (value : Nibble) (s : State) : Host.Outcome State Fault Refusal :=
  .next (s.setResult r (clearedOp (s.reg r &&& zextNibble value)))

/-- OR (R188). -/
def execOr (r1 r2 rt : Reg) (s : State) : Host.Outcome State Fault Refusal :=
  .next (s.setResult rt (clearedOp (s.reg r1 ||| s.reg r2)))

/-- ORQ (R189). -/
def execOrq (r : Reg) (value : Nibble) (s : State) : Host.Outcome State Fault Refusal :=
  .next (s.setResult r (clearedOp (s.reg r ||| zextNibble value)))

/-- XOR (R190). -/
def execXor (r1 r2 rt : Reg) (s : State) : Host.Outcome State Fault Refusal :=
  .next (s.setResult rt (clearedOp (s.reg r1 ^^^ s.reg r2)))

/-- XORQ (R191). -/
def execXorq (r : Reg) (value : Nibble) (s : State) : Host.Outcome State Fault Refusal :=
  .next (s.setResult r (clearedOp (s.reg r ^^^ zextNibble value)))

end Sys2Proof.Machine
end

