-- ==== Sys2Proof/Machine/Shift.lean ====
section
/-! DEFINITION. Shift instructions (spec/42_shift.md). Each meaning runs
on the state whose pc is already past the instruction (R10); log entry 17. -/

namespace Sys2Proof.Machine

/-- SAL: shift left, C by `CARRY_SAL` (R170). -/
def execSal (r1 r2 rt : Reg) (s : State) : Host.Outcome State Fault Refusal :=
  .next (s.setResult rt
    (shlOp s.config.carrySal (s.reg r1) (shiftCount s.config.shiftCountMode (s.reg r2))))

/-- SALQ (R171). -/
def execSalq (r : Reg) (count : Nibble) (s : State) : Host.Outcome State Fault Refusal :=
  .next (s.setResult r (shlOp s.config.carrySal (s.reg r) count.toNat))

/-- SAR: shift right with sign fill, C cleared (R172). -/
def execSar (r1 r2 rt : Reg) (s : State) : Host.Outcome State Fault Refusal :=
  .next (s.setResult rt (sarOp (s.reg r1) (shiftCount s.config.shiftCountMode (s.reg r2))))

/-- SARQ (R173). -/
def execSarq (r : Reg) (count : Nibble) (s : State) : Host.Outcome State Fault Refusal :=
  .next (s.setResult r (sarOp (s.reg r) count.toNat))

/-- SLR: shift right with zero fill, C cleared (R174). -/
def execSlr (r1 r2 rt : Reg) (s : State) : Host.Outcome State Fault Refusal :=
  .next (s.setResult rt (slrOp (s.reg r1) (shiftCount s.config.shiftCountMode (s.reg r2))))

/-- SLRQ (R175). -/
def execSlrq (r : Reg) (count : Nibble) (s : State) : Host.Outcome State Fault Refusal :=
  .next (s.setResult r (slrOp (s.reg r) count.toNat))

end Sys2Proof.Machine
end

