-- ==== Sys2Proof/Machine/System.lean ====
section
/-! DEFINITION. HALT, REGS and DUMP (spec/45_system.md). Each meaning runs
on the state whose pc is already past the instruction (R10); log entry 17. -/

namespace Sys2Proof.Machine

/-- HALT: pc and Z, N, C cleared, H set (R230). -/
def execHalt (s : State) : Host.Outcome State Fault Refusal :=
  .next { s with pc := 0x0000#16, flagZ := false, flagN := false, flagC := false, halted := true }

/-- REGS: prints in debugging mode only (R232). -/
def execRegs (s : State) : Host.Outcome State Fault Refusal :=
  .next s.display

/-- DUMP: prints in debugging mode only (R233). -/
def execDump (s : State) : Host.Outcome State Fault Refusal :=
  .next s.display

end Sys2Proof.Machine
end

