-- ==== Sys2Proof/Machine/Dispatch.lean ====
section
/-! DEFINITION. What each instruction does: one arm for each constructor of `Instr`. -/

namespace Sys2Proof.Machine

/-- The effect of an instruction on the state whose pc is past it (R10). -/
def exec (i : Instr) (s : State) : Host.Outcome State Fault Refusal :=
  match i with
  | .halt => Sys2Proof.Machine.execHalt s
  | .b imm => Sys2Proof.Machine.execB imm s
  | .beq imm => Sys2Proof.Machine.execBeq imm s
  | .bne imm => Sys2Proof.Machine.execBne imm s
  | .blt imm => Sys2Proof.Machine.execBlt imm s
  | .ble imm => Sys2Proof.Machine.execBle imm s
  | .bge imm => Sys2Proof.Machine.execBge imm s
  | .bgt imm => Sys2Proof.Machine.execBgt imm s
  | .bltu imm => Sys2Proof.Machine.execBltu imm s
  | .bleu imm => Sys2Proof.Machine.execBleu imm s
  | .bgeu imm => Sys2Proof.Machine.execBgeu imm s
  | .bgtu imm => Sys2Proof.Machine.execBgtu imm s
  | .call imm => Sys2Proof.Machine.execCall imm s
  | .ret => Sys2Proof.Machine.execRet s
  | .regs => Sys2Proof.Machine.execRegs s
  | .dump => Sys2Proof.Machine.execDump s
  | .li r imm => Sys2Proof.Machine.execLi r imm s
  | .lb r imm => Sys2Proof.Machine.execLb r imm s
  | .lw r imm => Sys2Proof.Machine.execLw r imm s
  | .stb r imm => Sys2Proof.Machine.execStb r imm s
  | .stw r imm => Sys2Proof.Machine.execStw r imm s
  | .not r => Sys2Proof.Machine.execNot r s
  | .neg r => Sys2Proof.Machine.execNeg r s
  | .abs r => Sys2Proof.Machine.execAbs r s
  | .ext r => Sys2Proof.Machine.execExt r s
  | .push r => Sys2Proof.Machine.execPush r s
  | .pop r => Sys2Proof.Machine.execPop r s
  | .inp r => Sys2Proof.Machine.execIn r s
  | .out r => Sys2Proof.Machine.execOut r s
  | .jump r => Sys2Proof.Machine.execJump r s
  | .exec r => Sys2Proof.Machine.execExec r s
  | .mov rs rt => Sys2Proof.Machine.execMov rs rt s
  | .cmp r1 r2 => Sys2Proof.Machine.execCmp r1 r2 s
  | .ldq r value => Sys2Proof.Machine.execLdq r value s
  | .cmpq r value => Sys2Proof.Machine.execCmpq r value s
  | .addq r value => Sys2Proof.Machine.execAddq r value s
  | .subq r value => Sys2Proof.Machine.execSubq r value s
  | .mulq r value => Sys2Proof.Machine.execMulq r value s
  | .divq r value => Sys2Proof.Machine.execDivq r value s
  | .modq r value => Sys2Proof.Machine.execModq r value s
  | .andq r value => Sys2Proof.Machine.execAndq r value s
  | .orq r value => Sys2Proof.Machine.execOrq r value s
  | .xorq r value => Sys2Proof.Machine.execXorq r value s
  | .salq r count => Sys2Proof.Machine.execSalq r count s
  | .sarq r count => Sys2Proof.Machine.execSarq r count s
  | .slrq r count => Sys2Proof.Machine.execSlrq r count s
  | .lbx r rx offset => Sys2Proof.Machine.execLbx r rx offset s
  | .lwx r rx offset => Sys2Proof.Machine.execLwx r rx offset s
  | .stbx r rx offset => Sys2Proof.Machine.execStbx r rx offset s
  | .stwx r rx offset => Sys2Proof.Machine.execStwx r rx offset s
  | .add r1 r2 rt => Sys2Proof.Machine.execAdd r1 r2 rt s
  | .sub r1 r2 rt => Sys2Proof.Machine.execSub r1 r2 rt s
  | .mul r1 r2 rt => Sys2Proof.Machine.execMul r1 r2 rt s
  | .div r1 r2 rt => Sys2Proof.Machine.execDiv r1 r2 rt s
  | .mod r1 r2 rt => Sys2Proof.Machine.execMod r1 r2 rt s
  | .and r1 r2 rt => Sys2Proof.Machine.execAnd r1 r2 rt s
  | .or r1 r2 rt => Sys2Proof.Machine.execOr r1 r2 rt s
  | .xor r1 r2 rt => Sys2Proof.Machine.execXor r1 r2 rt s
  | .sal r1 r2 rt => Sys2Proof.Machine.execSal r1 r2 rt s
  | .sar r1 r2 rt => Sys2Proof.Machine.execSar r1 r2 rt s
  | .slr r1 r2 rt => Sys2Proof.Machine.execSlr r1 r2 rt s

end Sys2Proof.Machine
end

