-- ==== Sys2Proof/Machine/Step.lean ====
section
/-! DEFINITION. One step of the machine (R10), and placing an instruction where it is fetched. -/

namespace Sys2Proof.Machine

/-- One step (R10). A halted machine changes nothing (R231): DESIGN CHOICE, log entry 12. Else the
instruction at pc is fetched whole, pc is advanced past it, and it executes. -/
def step (s : State) : Host.Outcome State Fault Refusal :=
  if s.suspended then .next s
  else match s.fetchFault with
    | some f => .fault f
    | none => exec s.fetch s.fetched

/-- `s` with the instruction whose bits are the low nbits of w (every bit above 0) stored at pc, and not
halted, so that the next step fetches and runs it. Log entry 15. -/
def State.withFetchWord (s : State) (nbits w : Nat) : State :=
  s.placeWords (BitVec.ofNat 16 (w % 2 ^ nbits)) (BitVec.ofNat 16 (w % 2 ^ nbits / 2 ^ 16))

end Sys2Proof.Machine
end

