-- ==== Sys2Proof/Machine/Tables.lean ====
section
/-! DEFINITION. The spec's tables over the whole instruction set: which registers, flags and bytes an
instruction writes (R23, R32, R59), and its timing (R281, R282), which no step reads. -/

namespace Sys2Proof.Machine

/-- The general registers an instruction writes (R23). -/
def destinations (config : Config) : Instr → List Reg
  | .ldq r _ => [r]
  | .li r _ | .lb r _ | .lw r _ => [r]
  | .lbx r _ _ | .lwx r _ _ => [r]
  | .inp r => [r]
  | .neg r | .abs r | .ext r | .not r => [r]
  | .addq r _ | .subq r _ | .mulq r _ | .divq r _ | .modq r _ | .andq r _ | .orq r _
  | .xorq r _ | .salq r _ | .sarq r _ | .slrq r _ => [r]
  | .add _ _ rt | .sub _ _ rt | .mul _ _ rt | .div _ _ rt | .mod _ _ rt | .and _ _ rt
  | .or _ _ rt | .xor _ _ rt | .sal _ _ rt | .sar _ _ rt | .slr _ _ rt => [rt]
  | .pop r => [r, SP]
  | .push _ | .call _ | .exec _ | .ret => [SP]
  | .mov rs rt => match config.movDirection with
    | .secondIsDestination => [rt]
    | .firstIsDestination => [rs]
  | .cmp _ _ | .cmpq _ _ | .stb _ _ | .stw _ _ | .stbx _ _ _ | .stwx _ _ _ | .out _ | .jump _
  | .b _ | .beq _ | .bne _ | .blt _ | .ble _ | .bge _ | .bgt _ | .bltu _ | .bleu _ | .bgeu _
  | .bgtu _ | .halt | .regs | .dump => []

/-- Whether an instruction writes Z, N and C (R32). -/
def writesFlags : Instr → Bool
  | .neg _ | .abs _ | .ext _ | .not _ | .cmp _ _ | .cmpq _ _ | .add _ _ _ | .sub _ _ _
  | .mul _ _ _ | .div _ _ _ | .mod _ _ _ | .and _ _ _ | .or _ _ _ | .xor _ _ _ | .sal _ _ _
  | .sar _ _ _ | .slr _ _ _ | .addq _ _ | .subq _ _ | .mulq _ _ | .divq _ _ | .modq _ _
  | .andq _ _ | .orq _ _ | .xorq _ _ | .salq _ _ | .sarq _ _ | .slrq _ _ | .halt => true
  | .b _ | .beq _ | .bne _ | .blt _ | .ble _ | .bge _ | .bgt _ | .bltu _ | .bleu _ | .bgeu _
  | .bgtu _ | .call _ | .ret | .regs | .dump | .li _ _ | .lb _ _ | .lw _ _ | .stb _ _
  | .stw _ _ | .push _ | .pop _ | .inp _ | .out _ | .jump _ | .exec _ | .mov _ _ | .ldq _ _
  | .lbx _ _ _ | .lwx _ _ _ | .stbx _ _ _ | .stwx _ _ _ => false

/-- The addresses of the bytes an instruction stores to (R59), from the state it executes in. -/
def storedTo (s : State) : Instr → List Word
  | .stb _ imm => [imm]
  | .stw _ imm => [imm, imm + 1]
  | .stbx _ rx offset => [s.indexed rx offset]
  | .stwx _ rx offset => [s.indexed rx offset, s.indexed rx offset + 1]
  | .push _ | .call _ | .exec _ => [s.pushTarget, s.pushTarget + 1]
  | .halt | .b _ | .beq _ | .bne _ | .blt _ | .ble _ | .bge _ | .bgt _ | .bltu _ | .bleu _
  | .bgeu _ | .bgtu _ | .ret | .regs | .dump | .li _ _ | .lb _ _ | .lw _ _ | .not _ | .neg _
  | .abs _ | .ext _ | .pop _ | .inp _ | .out _ | .jump _ | .mov _ _ | .cmp _ _ | .ldq _ _
  | .cmpq _ _ | .addq _ _ | .subq _ _ | .mulq _ _ | .divq _ _ | .modq _ _ | .andq _ _
  | .orq _ _ | .xorq _ _ | .salq _ _ | .sarq _ _ | .slrq _ _ | .lbx _ _ _ | .lwx _ _ _
  | .add _ _ _ | .sub _ _ _ | .mul _ _ _ | .div _ _ _ | .mod _ _ _ | .and _ _ _ | .or _ _ _
  | .xor _ _ _ | .sal _ _ _ | .sar _ _ _ | .slr _ _ _ => []

/-- Bytes of data memory an instruction reads or writes (R59). -/
def dataBytes : Instr → Nat
  | .lb _ _ | .stb _ _ | .lbx _ _ _ | .stbx _ _ _ => 1
  | .lw _ _ | .stw _ _ | .lwx _ _ _ | .stwx _ _ _ | .push _ | .call _ | .exec _ | .pop _
  | .ret => 2
  | .halt | .b _ | .beq _ | .bne _ | .blt _ | .ble _ | .bge _ | .bgt _ | .bltu _ | .bleu _
  | .bgeu _ | .bgtu _ | .regs | .dump | .li _ _ | .not _ | .neg _ | .abs _ | .ext _ | .inp _
  | .out _ | .jump _ | .mov _ _ | .cmp _ _ | .ldq _ _ | .cmpq _ _ | .addq _ _ | .subq _ _
  | .mulq _ _ | .divq _ _ | .modq _ _ | .andq _ _ | .orq _ _ | .xorq _ _ | .salq _ _
  | .sarq _ _ | .slrq _ _ | .add _ _ _ | .sub _ _ _ | .mul _ _ _ | .div _ _ _ | .mod _ _ _
  | .and _ _ _ | .or _ _ _ | .xor _ _ _ | .sal _ _ _ | .sar _ _ _ | .slr _ _ _ => 0

/-- Clock cycles (R281); those of MOV, ABS, SAL and MOD are the spec's own choice (R282, D31). Timing
only: no step reads it and the state holds no time (R281). Log entry 18. -/
def cycles : Instr → Nat
  | .halt | .regs | .dump | .not _ | .neg _ | .abs _ | .ext _ | .jump _ | .mov _ _ | .cmp _ _
  | .ldq _ _ | .cmpq _ _ | .addq _ _ | .subq _ _ | .andq _ _ | .orq _ _ | .xorq _ _
  | .salq _ _ | .sarq _ _ | .slrq _ _ | .add _ _ _ | .sub _ _ _ | .and _ _ _ | .or _ _ _
  | .xor _ _ _ | .sal _ _ _ | .sar _ _ _ | .slr _ _ _ => 2
  | .inp _ | .out _ | .mulq _ _ | .lbx _ _ _ | .stbx _ _ _ | .mul _ _ _ => 3
  | .b _ | .beq _ | .bne _ | .blt _ | .ble _ | .bge _ | .bgt _ | .bltu _ | .bleu _ | .bgeu _
  | .bgtu _ | .ret | .li _ _ | .push _ | .pop _ | .exec _ | .divq _ _ | .modq _ _ | .lwx _ _ _
  | .stwx _ _ _ | .div _ _ _ | .mod _ _ _ => 4
  | .lb _ _ | .stb _ _ => 5
  | .call _ | .lw _ _ | .stw _ _ => 6

end Sys2Proof.Machine
end

