-- ==== Sys2Proof/Safety.lean ====
section
/-! DEFINITION. The terms claims are made in: what a step leaves unchanged, the invariant of every step,
and what the end of a run is. -/

namespace Sys2Proof.Machine

/-- Every general register but those listed is unchanged. -/
def SameRegs (s t : State) (except : List Reg) : Prop := ∀ r, r ∉ except → t.reg r = s.reg r

/-- Z, N and C are unchanged. -/
def SameFlags (s t : State) : Prop :=
  t.flagZ = s.flagZ ∧ t.flagN = s.flagN ∧ t.flagC = s.flagC

/-- Every byte of memory but those at the addresses listed reads as before. -/
def SameMem (s t : State) (except : List Word) : Prop :=
  ∀ a, a ∉ except → t.readByte a = s.readByte a

/-- Both streams and the read position are unchanged. -/
def SameStreams (s t : State) : Prop :=
  t.stdin = s.stdin ∧ t.stdinPos = s.stdinPos ∧ t.stdout = s.stdout

/-- H and the run's configuration are unchanged. -/
def SameMode (s t : State) : Prop := t.halted = s.halted ∧ t.config = s.config

/-- Nothing of the spec's state changes but register r (R43). -/
def OnlyReg (s t : State) (r : Reg) : Prop :=
  SameRegs s t [r] ∧ SameFlags s t ∧ t.pc = s.pc ∧ SameMem s t [] ∧ SameStreams s t ∧ SameMode s t

/-- Nothing of the spec's state changes but the bytes at the addresses listed. -/
def OnlyMem (s t : State) (except : List Word) : Prop :=
  SameRegs s t [] ∧ SameFlags s t ∧ t.pc = s.pc ∧ SameMem s t except ∧ SameStreams s t ∧ SameMode s t

/-- Nothing of the spec's state changes but pc. -/
def OnlyPc (s t : State) : Prop :=
  SameRegs s t [] ∧ SameFlags s t ∧ SameMem s t [] ∧ SameStreams s t ∧ SameMode s t

/-- Nothing of the spec's state changes but Z, N and C. -/
def OnlyFlags (s t : State) : Prop :=
  SameRegs s t [] ∧ t.pc = s.pc ∧ SameMem s t [] ∧ SameStreams s t ∧ SameMode s t

/-- Z and N are those of a 16-bit value (R31). -/
def FlagsOf (t : State) (v : Word) : Prop :=
  t.flagZ = decide (v = 0#16) ∧ t.flagN = v.getLsbD 15

/-- A result stands in register r, Z and N are those of the result, and nothing else of the spec's state
but C has changed. -/
def ResultIn (s t : State) (r : Reg) : Prop :=
  FlagsOf t (t.reg r) ∧ SameRegs s t [r] ∧ t.pc = s.pc ∧ SameMem s t [] ∧ SameStreams s t ∧
    SameMode s t

/-- Memory holds a word little endian at an address (R52). -/
def HoldsWord (t : State) (a v : Word) : Prop :=
  t.readByte a = v.extractLsb' 0 8 ∧ t.readByte (a + 1) = v.extractLsb' 8 8

/-- The addresses an access forms may be used: either addresses wrap, or they fit below 2^16 (D4). -/
def Usable (s : State) (fits : Prop) : Prop := s.config.addrWrap = .wrap ∨ fits

/-- The count a register shift uses, as R176 writes it. -/
def registerCount (mode : ShiftCountMode) (v : Word) : Nat :=
  match mode with
  | .full => v.toNat
  | .mod16 => v.toNat % 16

/-- Q and M are quotient and remainder of a by b, rounding toward zero (R158, `DIV_SIGNED`). -/
def SignedDivision (a b : Word) (Q M : Int) : Prop :=
  a.toInt = Q * b.toInt + M ∧ M.natAbs < b.toInt.natAbs ∧ (0 ≤ a.toInt → 0 ≤ M) ∧
    (a.toInt ≤ 0 → M ≤ 0)

/-- Q and M are quotient and remainder of a by b, both unsigned (R158). -/
def UnsignedDivision (a b : Word) (Q M : Int) : Prop :=
  (a.toNat : Int) = Q * (b.toNat : Int) + M ∧ 0 ≤ M ∧ M < (b.toNat : Int)

/-- What holds at the start of every run and after every step: memory is in canonical form, the read
position is within the input, Z and N are never both set, and a halted machine has pc 0 and its flags
clear (R231). -/
def State.Inv (s : State) : Prop :=
  Memory.wf s.mem = true ∧ s.stdinPos ≤ s.stdin.length ∧ ¬ (s.flagZ = true ∧ s.flagN = true) ∧
    (s.halted = true → s.pc = 0#16 ∧ s.flagZ = false ∧ s.flagN = false ∧ s.flagC = false)

/-- The run from s ends normally (R231): some number of steps brings it to a halted machine. A run that
meets a fault or a refusal does not end so (R241). -/
def EndsNormally (s : State) : Prop := ∃ k t, core.run k s = .next t ∧ t.halted = true

end Sys2Proof.Machine
end

