-- ==== Sys2Proof/Certificates/Slice0/Obligations.lean ====
section
/-! DEFINITION. The statements for the provers. `exec` runs on the state whose pc is already past the
instruction (R10, log entry 17), so `s.pc` is the address of the next instruction. Every statement holds
under every value of the parameters of R6 that it does not fix itself. -/

open Sys2Proof Sys2Proof.Machine

/-! Encoding. -/

/-- Decoding an encoded instruction gives it back, with every operand at every value, under every field
map (R86, R90). -/
def Obligations.DecodeOfEncodeGivesInstruction : Prop :=
  ∀ (fm : FieldMap) (i : Instr) (rest : List Byte),
    decode fm (wordBytes (encode fm i) ++ rest) = .ok (i, rest)

/-- Encoding a decoded instruction gives back the bytes it was decoded from: no two byte strings decode
alike and no bit is dropped (R86, R90, R91). -/
def Obligations.EncodeOfDecodeGivesBytes : Prop :=
  ∀ (fm : FieldMap) (bytes rest : List Byte) (i : Instr),
    decode fm bytes = .ok (i, rest) → bytes = wordBytes (encode fm i) ++ rest

/-- There is no illegal encoding: any four bytes begin with an instruction, of four bytes or of two
(R91). -/
def Obligations.EveryFourBytesDecode : Prop :=
  ∀ (fm : FieldMap) (b0 b1 b2 b3 : Byte) (rest : List Byte),
    (∃ i, decode fm (b0 :: b1 :: b2 :: b3 :: rest) = .ok (i, rest) ∧ i.length = 4) ∨
    (∃ i, decode fm (b0 :: b1 :: b2 :: b3 :: rest) = .ok (i, b2 :: b3 :: rest) ∧ i.length = 2)

/-- The length is told from the first word alone (R81; the rule is marked derived by the spec). -/
def Obligations.LengthFromFirstWord : Prop :=
  ∀ (fm : FieldMap) (w imm : Word),
    (decodeWords fm w imm).length =
      if (w.toNat / 16 = 0 ∧ 1 ≤ w.toNat % 16 ∧ w.toNat % 16 ≤ 12) ∨
          (w.toNat / 256 = 0 ∧ 1 ≤ w.toNat / 16 % 16 ∧ w.toNat / 16 % 16 ≤ 5)
      then 4 else 2

/-- The seven example words of R90, the words 0x0061 and 0x000F of spec/95_test_vectors.md section 2 and the
word 0xD321 of R170 (a row of section 5 there), under the default field map (the spec's choice, D1 and
D2). -/
def Obligations.ExampleWordsDecode : Prop :=
  decodeTableWord 16 0x5321 = some (.add 1 2 3) ∧ decodeTableWord 16 0x0394 = some (.ldq 4 9) ∧
  decodeTableWord 16 0x0221 = some (.cmp 1 2) ∧ decodeTableWord 16 0x22F3 = some (.lwx 3 15 2) ∧
  decodeTableWord 16 0x00A7 = some (.push 7) ∧ decodeTableWord 32 0x12340011 = some (.li 1 0x1234) ∧
  decodeTableWord 32 0x0100000C = some (.call 0x0100) ∧ decodeTableWord 16 0xD321 = some (.sal 1 2 3) ∧
  decodeTableWord 16 0x0061 = some (.not 1) ∧ decodeTableWord 16 0x000F = some .dump

/-! Data transfer. -/

/-- LDQ and LI whole: words, bytes, cycles, the new value, and nothing else changed (R110, R111). -/
def Obligations.LdqAndLiLoadConstants : Prop :=
  ∀ (fm : FieldMap) (s : State) (r : Reg),
    (∀ v : Nibble,
      encode fm (.ldq r v) = [0x0300#16 ||| (v.setWidth 16 <<< 4) ||| r.setWidth 16] ∧
      (Instr.ldq r v).length = 2 ∧ cycles (.ldq r v) = 2 ∧
      ∃ t, exec (.ldq r v) s = .next t ∧ (t.reg r).toNat = v.toNat ∧ OnlyReg s t r) ∧
    (∀ imm : Word,
      encode fm (.li r imm) = [0x0010#16 ||| r.setWidth 16, imm] ∧
      (Instr.li r imm).length = 4 ∧ cycles (.li r imm) = 4 ∧
      ∃ t, exec (.li r imm) s = .next t ∧ t.reg r = imm ∧ OnlyReg s t r)

/-- LB and LBX load a byte zero-extended; LBX from x[rx] plus the offset mod 2^16 (D4, the spec's choice),
computed from the old x[rx]. -/
def Obligations.ByteLoadsZeroExtend : Prop :=
  ∀ (s : State) (r : Reg),
    (∀ imm, ∃ t, exec (.lb r imm) s = .next t ∧ (t.reg r).toNat = (s.readByte imm).toNat ∧
      OnlyReg s t r) ∧
    (∀ rx offset, Usable s ((s.reg rx).toNat + offset.toNat < 65536) →
      ∃ (a : Word) (t : State), a.toNat = ((s.reg rx).toNat + offset.toNat) % 65536 ∧
        exec (.lbx r rx offset) s = .next t ∧ (t.reg r).toNat = (s.readByte a).toNat ∧ OnlyReg s t r)

/-- LW and LWX load a word little endian from an address and the next mod 2^16 (D4, D5, D28: the spec's
choices), LWX with both bytes at the old address. -/
def Obligations.WordLoadsLittleEndian : Prop :=
  ∀ (s : State) (r : Reg),
    (∀ imm, Usable s (imm.toNat + 1 < 65536) →
      ∃ t, exec (.lw r imm) s = .next t ∧
        (t.reg r).toNat = (s.readByte imm).toNat + 256 * (s.readByte (imm + 1)).toNat ∧
        OnlyReg s t r) ∧
    (∀ rx offset, Usable s ((s.reg rx).toNat + offset.toNat + 1 < 65536) →
      ∃ (a : Word) (t : State), a.toNat = ((s.reg rx).toNat + offset.toNat) % 65536 ∧
        exec (.lwx r rx offset) s = .next t ∧
        (t.reg r).toNat = (s.readByte a).toNat + 256 * (s.readByte (a + 1)).toNat ∧ OnlyReg s t r)

/-- STB and STBX store the low byte of r at their address and change nothing else (D4 for the sum). -/
def Obligations.ByteStoresChangeOneByte : Prop :=
  ∀ (s : State) (r : Reg),
    (∀ imm, ∃ t, exec (.stb r imm) s = .next t ∧ (t.readByte imm).toNat = (s.reg r).toNat % 256 ∧
      OnlyMem s t [imm]) ∧
    (∀ rx offset, Usable s ((s.reg rx).toNat + offset.toNat < 65536) →
      (s.indexed rx offset).toNat = ((s.reg rx).toNat + offset.toNat) % 65536 ∧
      ∃ t, exec (.stbx r rx offset) s = .next t ∧
        (t.readByte (s.indexed rx offset)).toNat = (s.reg r).toNat % 256 ∧
        OnlyMem s t [s.indexed rx offset])

/-- STW and STWX store the word of r little endian at their address and the next mod 2^16 and change
nothing else (D4, D5). -/
def Obligations.WordStoresChangeTwoBytes : Prop :=
  ∀ (s : State) (r : Reg),
    (∀ imm, Usable s (imm.toNat + 1 < 65536) →
      ∃ t, exec (.stw r imm) s = .next t ∧ HoldsWord t imm (s.reg r) ∧ OnlyMem s t [imm, imm + 1]) ∧
    (∀ rx offset, Usable s ((s.reg rx).toNat + offset.toNat + 1 < 65536) →
      ∃ t, exec (.stwx r rx offset) s = .next t ∧ HoldsWord t (s.indexed rx offset) (s.reg r) ∧
        OnlyMem s t [s.indexed rx offset, s.indexed rx offset + 1])

/-- STW then LW of one address gives the stored word back, at every address; LB of it gives the low byte
and LB of the next address the high byte (R57, with D4 at 0xFFFF). -/
def Obligations.StoredWordLoadsBack : Prop :=
  ∀ (s : State) (r q : Reg) (a : Word), Usable s (a.toNat + 1 < 65536) →
    ∃ t, exec (.stw r a) s = .next t ∧
      (∃ u, exec (.lw q a) t = .next u ∧ u.reg q = s.reg r) ∧
      (∃ u, exec (.lb q a) t = .next u ∧ (u.reg q).toNat = (s.reg r).toNat % 256) ∧
      (∃ u, exec (.lb q (a + 1)) t = .next u ∧ (u.reg q).toNat = (s.reg r).toNat / 256)

/-- PUSH stores x[r] at the bytes of `STACK_CONVENTION` (D3) and lowers SP by 2; PUSH R15 stores the old
SP (D28). -/
def Obligations.PushStoresBelowSp : Prop :=
  ∀ (s : State) (r : Reg), Usable s (2 ≤ (s.reg SP).toNat) →
    s.pushTarget = (match s.config.stackConvention with
      | .fullDescending => s.reg SP - 2
      | .emptyDescending => s.reg SP - 1) ∧
    ∃ t, exec (.push r) s = .next t ∧ HoldsWord t s.pushTarget (s.reg r) ∧
      t.reg SP = s.reg SP - 2 ∧ SameRegs s t [SP] ∧ SameFlags s t ∧ t.pc = s.pc ∧
      SameMem s t [s.pushTarget, s.pushTarget + 1] ∧ SameStreams s t ∧ SameMode s t

/-- POP r for r other than R15: the word at the bytes of `STACK_CONVENTION` (D3), little endian; SP is 2
higher. -/
def Obligations.PopLoadsFromSp : Prop :=
  ∀ (s : State) (r : Reg) (a : Word), r ≠ SP → Usable s ((s.reg SP).toNat + 2 < 65536) →
    a = (match s.config.stackConvention with
      | .fullDescending => s.reg SP
      | .emptyDescending => s.reg SP + 1) →
    ∃ t, exec (.pop r) s = .next t ∧
      (t.reg r).toNat = (s.readByte a).toNat + 256 * (s.readByte (a + 1)).toNat ∧
      t.reg SP = s.reg SP + 2 ∧ SameRegs s t [r, SP] ∧ SameFlags s t ∧ t.pc = s.pc ∧
      SameMem s t [] ∧ SameStreams s t ∧ SameMode s t

/-- POP R15 runs and changes R15 only; what R15 then holds the spec leaves unspecified (U9), and the
statement says nothing of it. That it runs is the model's choice, log entry 6. -/
def Obligations.PopSpChangesOnlySp : Prop :=
  ∀ s : State, Usable s ((s.reg SP).toNat + 2 < 65536) →
    ∃ t, exec (.pop SP) s = .next t ∧ OnlyReg s t SP

/-- PUSH then POP gives the value back and restores SP, under both stack conventions (C8, D3). -/
def Obligations.PushThenPopGivesValueBack : Prop :=
  ∀ (s : State) (r q : Reg), q ≠ SP → Usable s (2 ≤ (s.reg SP).toNat) →
    ∃ t u, exec (.push r) s = .next t ∧ exec (.pop q) t = .next u ∧ u.reg q = s.reg r ∧
      SameRegs s u [q]

/-- IN takes the next input byte zero-extended and moves the read position past it (R37, R122). -/
def Obligations.InTakesNextByte : Prop :=
  ∀ (s : State) (r : Reg) (h : s.stdinPos < s.stdin.length),
    ∃ t, exec (.inp r) s = .next t ∧ (t.reg r).toNat = s.stdin[s.stdinPos].toNat ∧
      t.stdin = s.stdin ∧ t.stdinPos = s.stdinPos + 1 ∧ t.stdout = s.stdout ∧
      SameRegs s t [r] ∧ SameFlags s t ∧ t.pc = s.pc ∧ SameMem s t [] ∧ SameMode s t

/-- IN with no byte left stops, with no effect, at its own address (R243; the fault and, under the other
value of `IN_AT_EOF`, the stuck state are the spec's choice D22; log entry 14). -/
def Obligations.InAtEndOfInputStops : Prop :=
  ∀ (s : State) (r : Reg), s.stdin.length ≤ s.stdinPos →
    (s.config.inAtEof = .fault → exec (.inp r) s = .fault (.inputExhausted (s.pc - 2) s)) ∧
    (s.config.inAtEof = .block → exec (.inp r) s = .fault (.inputBlocked (s.pc - 2) s))

/-- OUT appends the low byte of x[r] to standard output and changes nothing else (R38; that it never
fails is the spec's choice D23). -/
def Obligations.OutAppendsLowByte : Prop :=
  ∀ (s : State) (r : Reg), ∃ t b, exec (.out r) s = .next t ∧ b.toNat = (s.reg r).toNat % 256 ∧
    t.stdout = s.stdout ++ [b] ∧ t.stdin = s.stdin ∧ t.stdinPos = s.stdinPos ∧
    SameRegs s t [] ∧ SameFlags s t ∧ t.pc = s.pc ∧ SameMem s t [] ∧ SameMode s t

/-- MOV copies in the direction of `MOV_DIRECTION` and sets no flag (the spec's choice D20). -/
def Obligations.MovCopiesRegister : Prop :=
  ∀ (s : State) (rs rt : Reg), ∃ t, exec (.mov rs rt) s = .next t ∧
    (s.config.movDirection = .secondIsDestination → t.reg rt = s.reg rs ∧ OnlyReg s t rt) ∧
    (s.config.movDirection = .firstIsDestination → t.reg rs = s.reg rt ∧ OnlyReg s t rs)

/-! Arithmetic. -/

/-- NEG replaces x[r] by its two's complement; C by `CARRY_NEG` (the spec's choice D11; under `any`
nothing is said of C, log entry 8). -/
def Obligations.NegTwosComplement : Prop :=
  ∀ (s : State) (r : Reg), ∃ t, exec (.neg r) s = .next t ∧
    (t.reg r).toNat = (65536 - (s.reg r).toNat) % 65536 ∧
    (match s.config.carryNeg with
      | .borrow => t.flagC = decide ((s.reg r).toNat ≠ 0)
      | .zero => t.flagC = false
      | .overflow => t.flagC = decide ((s.reg r).toNat = 0x8000)
      | .any => True) ∧
    ResultIn s t r

/-- ABS leaves the absolute value, 0x8000 staying 0x8000; C by `ABS_MODEL` (all of ABS is the spec's
choice D12; "as for NEG" is DEDUCED, log entry 20). -/
def Obligations.AbsAbsoluteValue : Prop :=
  ∀ (s : State) (r : Reg), ∃ t, exec (.abs r) s = .next t ∧
    (t.reg r).toNat = (s.reg r).toInt.natAbs ∧
    (match s.config.absModel with
      | .zero => t.flagC = false
      | .likeNeg =>
        (0 ≤ (s.reg r).toInt → t.flagC = false) ∧
        ((s.reg r).toInt < 0 →
          (s.config.carryNeg = .borrow → t.flagC = true) ∧
          (s.config.carryNeg = .zero → t.flagC = false) ∧
          (s.config.carryNeg = .overflow → t.flagC = decide ((s.reg r).toNat = 0x8000)))
      | .any => True) ∧
    ResultIn s t r

/-- EXT whole: bits 15..8 each become bit 7, the low byte stays, Z and N from the result, C cleared; its
word, bytes and cycles (R142). -/
def Obligations.ExtSignExtendsLowByte : Prop :=
  ∀ (fm : FieldMap) (s : State) (r : Reg),
    encode fm (.ext r) = [0x0090#16 ||| r.setWidth 16] ∧
    (Instr.ext r).length = 2 ∧ cycles (.ext r) = 2 ∧
    ∃ t, exec (.ext r) s = .next t ∧
      (∀ k, k < 8 → (t.reg r).getLsbD k = (s.reg r).getLsbD k) ∧
      (∀ k, 8 ≤ k → k < 16 → (t.reg r).getLsbD k = (s.reg r).getLsbD 7) ∧
      t.flagC = false ∧ ResultIn s t r

/-- CMP and CMPQ set the flags of the first operand less the second and write no register: Z if equal, N
bit 15 of the difference, C the borrow (C as borrow is D10, the spec's derivation). -/
def Obligations.CompareSetsFlagsOnly : Prop :=
  ∀ s : State,
    (∀ r1 r2, ∃ t, exec (.cmp r1 r2) s = .next t ∧
      t.flagZ = decide (s.reg r1 = s.reg r2) ∧ t.flagN = (s.reg r1 - s.reg r2).getLsbD 15 ∧
      t.flagC = decide ((s.reg r1).toNat < (s.reg r2).toNat) ∧ OnlyFlags s t) ∧
    (∀ r (v : Nibble), ∃ t, exec (.cmpq r v) s = .next t ∧
      t.flagZ = decide ((s.reg r).toNat = v.toNat) ∧
      t.flagN = (s.reg r - v.setWidth 16).getLsbD 15 ∧
      t.flagC = decide ((s.reg r).toNat < v.toNat) ∧ OnlyFlags s t)

/-- ADD and ADDQ: the sum mod 2^16, C the carry out of bit 15 (the spec's choice D9). -/
def Obligations.AddWithCarryOut : Prop :=
  ∀ s : State,
    (∀ r1 r2 rt, ∃ t, exec (.add r1 r2 rt) s = .next t ∧
      (t.reg rt).toNat = ((s.reg r1).toNat + (s.reg r2).toNat) % 65536 ∧
      t.flagC = decide (65536 ≤ (s.reg r1).toNat + (s.reg r2).toNat) ∧ ResultIn s t rt) ∧
    (∀ r v, ∃ t, exec (.addq r v) s = .next t ∧
      (t.reg r).toNat = ((s.reg r).toNat + v.toNat) % 65536 ∧
      t.flagC = decide (65536 ≤ (s.reg r).toNat + v.toNat) ∧ ResultIn s t r)

/-- SUB and SUBQ: the difference mod 2^16, C the borrow (D10, the spec's derivation). -/
def Obligations.SubWithBorrow : Prop :=
  ∀ s : State,
    (∀ r1 r2 rt, ∃ t, exec (.sub r1 r2 rt) s = .next t ∧
      (t.reg rt).toNat = (65536 + (s.reg r1).toNat - (s.reg r2).toNat) % 65536 ∧
      t.flagC = decide ((s.reg r1).toNat < (s.reg r2).toNat) ∧ ResultIn s t rt) ∧
    (∀ r v, ∃ t, exec (.subq r v) s = .next t ∧
      (t.reg r).toNat = (65536 + (s.reg r).toNat - v.toNat) % 65536 ∧
      t.flagC = decide ((s.reg r).toNat < v.toNat) ∧ ResultIn s t r)

/-- MUL and MULQ: the low 16 bits of the product, the same for the signed product; C by `CARRY_MUL` (the
spec's choice D13; what signed overflow means is DEDUCED, log entry 21). -/
def Obligations.MulLowHalf : Prop :=
  ∀ (s : State),
    (∀ r1 r2 rt, ∃ t, exec (.mul r1 r2 rt) s = .next t ∧
      (t.reg rt).toNat = (s.reg r1).toNat * (s.reg r2).toNat % 65536 ∧
      t.reg rt = BitVec.ofInt 16 ((s.reg r1).toInt * (s.reg r2).toInt) ∧
      (match s.config.carryMul with
        | .unsignedOverflow => t.flagC = decide (65536 ≤ (s.reg r1).toNat * (s.reg r2).toNat)
        | .signedOverflow =>
          t.flagC = decide ((t.reg rt).toInt ≠ (s.reg r1).toInt * (s.reg r2).toInt)
        | .zero => t.flagC = false
        | .any => True) ∧ ResultIn s t rt) ∧
    (∀ r (v : Nibble), ∃ t, exec (.mulq r v) s = .next t ∧
      (t.reg r).toNat = (s.reg r).toNat * v.toNat % 65536 ∧
      (match s.config.carryMul with
        | .unsignedOverflow => t.flagC = decide (65536 ≤ (s.reg r).toNat * v.toNat)
        | .signedOverflow => t.flagC = decide ((t.reg r).toInt ≠ (s.reg r).toInt * (v.toNat : Int))
        | .zero => t.flagC = false
        | .any => True) ∧ ResultIn s t r)

/-- DIV, DIVQ, MOD and MODQ on a divisor that is not 0 and, where `DIV_OVERFLOW` is fault, not on 0x8000
by 0xFFFF read signed: quotient and remainder of one division, signed rounding toward zero or unsigned by
`DIV_SIGNED`; C by `CARRY_DIV` (the spec's choices D14, D16, D17, D21). -/
def Obligations.DivisionQuotientAndRemainder : Prop :=
  ∀ (s : State) (a b : Word), b ≠ 0#16 →
    ¬ (s.config.divSigned = true ∧ s.config.divOverflow = .fault ∧ a = 0x8000#16 ∧ b = 0xFFFF#16) →
    ∃ Q M : Int,
      (if s.config.divSigned then SignedDivision a b Q M else UnsignedDivision a b Q M) ∧
      (∀ r1 r2 rt, s.reg r1 = a → s.reg r2 = b →
        (∃ t, exec (.div r1 r2 rt) s = .next t ∧ t.reg rt = BitVec.ofInt 16 Q ∧
          (s.config.carryDiv = .zero → t.flagC = false) ∧ ResultIn s t rt) ∧
        (∃ t, exec (.mod r1 r2 rt) s = .next t ∧ t.reg rt = BitVec.ofInt 16 M ∧
          (s.config.carryDiv = .zero → t.flagC = false) ∧ ResultIn s t rt)) ∧
      (∀ (r : Reg) (v : Nibble), s.reg r = a → v.setWidth 16 = b →
        (∃ t, exec (.divq r v) s = .next t ∧ t.reg r = BitVec.ofInt 16 Q ∧
          (s.config.carryDiv = .zero → t.flagC = false) ∧ ResultIn s t r) ∧
        (∃ t, exec (.modq r v) s = .next t ∧ t.reg r = BitVec.ofInt 16 M ∧
          (s.config.carryDiv = .zero → t.flagC = false) ∧ ResultIn s t r))

/-- Division by 0 stops at the instruction's own address, the machine unchanged but for the advanced pc
(R242, the spec's choice D15). -/
def Obligations.DivisionByZeroStops : Prop :=
  ∀ s : State,
    (∀ r1 r2 rt, s.reg r2 = 0#16 →
      exec (.div r1 r2 rt) s = .fault (.divideByZero (s.pc - 2) s) ∧
      exec (.mod r1 r2 rt) s = .fault (.divideByZero (s.pc - 2) s)) ∧
    (∀ r, exec (.divq r 0) s = .fault (.divideByZero (s.pc - 2) s) ∧
      exec (.modq r 0) s = .fault (.divideByZero (s.pc - 2) s))

/-- 0x8000 by 0xFFFF, division being signed: quotient 0x8000 and remainder 0, or a stop, by
`DIV_OVERFLOW` (the spec's choice D16). -/
def Obligations.SignedDivisionOverflow : Prop :=
  ∀ (s : State) (r1 r2 rt : Reg), s.reg r1 = 0x8000#16 → s.reg r2 = 0xFFFF#16 →
    s.config.divSigned = true →
    (s.config.divOverflow = .wrap →
      (∃ t, exec (.div r1 r2 rt) s = .next t ∧ t.reg rt = 0x8000#16 ∧ t.flagN = true) ∧
      (∃ t, exec (.mod r1 r2 rt) s = .next t ∧ t.reg rt = 0#16 ∧ t.flagZ = true)) ∧
    (s.config.divOverflow = .fault →
      exec (.div r1 r2 rt) s = .fault (.divideOverflow (s.pc - 2) s) ∧
      exec (.mod r1 r2 rt) s = .fault (.divideOverflow (s.pc - 2) s))

/-- On operands below 0x8000 DIV, MOD, DIVQ and MODQ do not depend on `DIV_SIGNED` (U3). Under `CARRY_DIV`
= any nothing is said of C, a free bit that two runs need not share (log entries 8 and 9). -/
def Obligations.SmallDivisionIgnoresSignedness : Prop :=
  ∀ (s : State) (sg : Bool) (a b : Word) (i : Instr),
    a.toNat < 0x8000 → b.toNat < 0x8000 → b ≠ 0#16 →
    (∃ r1 r2 rt, a = s.reg r1 ∧ b = s.reg r2 ∧ (i = .div r1 r2 rt ∨ i = .mod r1 r2 rt)) ∨
    (∃ r, ∃ v : Nibble, a = s.reg r ∧ b = v.setWidth 16 ∧ (i = .divq r v ∨ i = .modq r v)) →
    ∃ t u, exec i s = .next t ∧
      exec i { s with config := { s.config with divSigned := sg } } = .next u ∧
      (∀ r, t.reg r = u.reg r) ∧ t.flagZ = u.flagZ ∧ t.flagN = u.flagN ∧
      (s.config.carryDiv = .zero → t.flagC = u.flagC)

/-! Shifts. -/

/-- SAL and SALQ: bit k of the result is bit k - n of the operand, 0 below bit n; C by `CARRY_SAL` (the
spec's choice D18; for the OR of the bits out, log entry 22); the count of SAL by `SHIFT_COUNT_MODE` (D19). -/
def Obligations.ShiftLeftBits : Prop :=
  ∀ (s : State) (a : Word) (n : Nat) (i : Instr) (rd : Reg),
    (∃ r1 r2, i = .sal r1 r2 rd ∧ a = s.reg r1 ∧
      n = registerCount s.config.shiftCountMode (s.reg r2)) ∨
    (∃ v : Nibble, i = .salq rd v ∧ a = s.reg rd ∧ n = v.toNat) →
    ∃ t, exec i s = .next t ∧
      (∀ k, k < 16 → (t.reg rd).getLsbD k = (decide (n ≤ k) && a.getLsbD (k - n))) ∧
      (match s.config.carrySal with
        | .lastOut => t.flagC = (decide (1 ≤ n ∧ n ≤ 16) && a.getLsbD (16 - n))
        | .orOut => (t.flagC = true ↔ ∃ k, k < 16 ∧ 16 ≤ k + n ∧ a.getLsbD k = true)
        | .zero => t.flagC = false
        | .any => True) ∧
      ResultIn s t rd

/-- SAR and SARQ: the floor of the signed operand by 2^n, vacated bits the sign bit, C cleared (R178);
the count of SAR by `SHIFT_COUNT_MODE` (the spec's choice D19). -/
def Obligations.ShiftArithmeticRight : Prop :=
  ∀ (s : State) (a : Word) (n : Nat) (i : Instr) (rd : Reg),
    (∃ r1 r2, i = .sar r1 r2 rd ∧ a = s.reg r1 ∧
      n = registerCount s.config.shiftCountMode (s.reg r2)) ∨
    (∃ v : Nibble, i = .sarq rd v ∧ a = s.reg rd ∧ n = v.toNat) →
    ∃ t, exec i s = .next t ∧ t.reg rd = BitVec.ofInt 16 (a.toInt / 2 ^ n) ∧
      (∀ k, k < 16 → (t.reg rd).getLsbD k =
        if k + n < 16 then a.getLsbD (k + n) else a.getLsbD 15) ∧
      (15 ≤ n → t.reg rd = if a.getLsbD 15 then 0xFFFF#16 else 0#16) ∧
      t.flagC = false ∧ ResultIn s t rd

/-- SLR and SLRQ: the floor of the unsigned operand by 2^n, vacated bits 0, C cleared; N can be set only
for count 0 and bit 15 set (R179); the count of SLR by `SHIFT_COUNT_MODE` (the spec's choice D19). -/
def Obligations.ShiftLogicalRight : Prop :=
  ∀ (s : State) (a : Word) (n : Nat) (i : Instr) (rd : Reg),
    (∃ r1 r2, i = .slr r1 r2 rd ∧ a = s.reg r1 ∧
      n = registerCount s.config.shiftCountMode (s.reg r2)) ∨
    (∃ v : Nibble, i = .slrq rd v ∧ a = s.reg rd ∧ n = v.toNat) →
    ∃ t, exec i s = .next t ∧ (t.reg rd).toNat = a.toNat / 2 ^ n ∧
      (∀ k, k < 16 → (t.reg rd).getLsbD k = a.getLsbD (k + n)) ∧
      (16 ≤ n → t.reg rd = 0#16) ∧
      (t.flagN = true → n = 0 ∧ a.getLsbD 15 = true) ∧
      t.flagC = false ∧ ResultIn s t rd

/-- A register shift by less than 16 does not depend on `SHIFT_COUNT_MODE`, which the spec leaves open
(R176, D19). After SAL under `CARRY_SAL` = any nothing is said of C, a free bit that two runs need not
share (log entries 8 and 9). -/
def Obligations.SmallShiftIgnoresCountMode : Prop :=
  ∀ (s : State) (mode : ShiftCountMode) (r1 r2 rt : Reg), (s.reg r2).toNat < 16 →
    ∀ i, i = Instr.sal r1 r2 rt ∨ i = Instr.sar r1 r2 rt ∨ i = Instr.slr r1 r2 rt →
      ∃ t u, exec i s = .next t ∧
        exec i { s with config := { s.config with shiftCountMode := mode } } = .next u ∧
        (∀ r, t.reg r = u.reg r) ∧ t.flagZ = u.flagZ ∧ t.flagN = u.flagN ∧
        ((i = .sal r1 r2 rt → s.config.carrySal ≠ .any) → t.flagC = u.flagC)

/-! Logic. -/

/-- The logic family whole: the operation on each of the 16 bits, the quick operand zero-extended, Z and N
from the result, C cleared (R192). NOT is the one-register form (C4). -/
def Obligations.LogicBitByBit : Prop :=
  ∀ (s : State) (i : Instr) (rd : Reg) (f : Bool → Bool → Bool) (a b : Word),
    (∃ r1 r2, a = s.reg r1 ∧ b = s.reg r2 ∧
      (i = .and r1 r2 rd ∧ f = and ∨ i = .or r1 r2 rd ∧ f = or ∨ i = .xor r1 r2 rd ∧ f = xor)) ∨
    (∃ v : Nibble, a = s.reg rd ∧ b = v.setWidth 16 ∧
      (i = .andq rd v ∧ f = and ∨ i = .orq rd v ∧ f = or ∨ i = .xorq rd v ∧ f = xor)) ∨
    (i = .not rd ∧ a = s.reg rd ∧ f = fun x _ => !x) →
    ∃ t, exec i s = .next t ∧
      (∀ k, k < 16 → (t.reg rd).getLsbD k = f (a.getLsbD k) (b.getLsbD k)) ∧
      t.flagC = false ∧ ResultIn s t rd

/-! Branch, jump, call, return. -/

/-- B and JUMP whole: pc is the second word, or x[r], as it is; nothing else changes; their words, bytes
and cycles (R200, R211). -/
def Obligations.BAndJumpGoToTarget : Prop :=
  ∀ (fm : FieldMap) (s : State),
    (∀ imm, encode fm (.b imm) = [0x0001#16, imm] ∧ (Instr.b imm).length = 4 ∧
      cycles (.b imm) = 4 ∧ ∃ t, exec (.b imm) s = .next t ∧ t.pc = imm ∧ OnlyPc s t) ∧
    (∀ r : Reg, encode fm (.jump r) = [0x00E0#16 ||| r.setWidth 16] ∧ (Instr.jump r).length = 2 ∧
      cycles (.jump r) = 2 ∧ ∃ t, exec (.jump r) s = .next t ∧ t.pc = s.reg r ∧ OnlyPc s t)

/-- The ten conditional branches whole: taken on their flags, else on to the next instruction; nothing
else changes; their words, bytes and cycles (R201 to R210). -/
def Obligations.ConditionalBranchesTestFlags : Prop :=
  ∀ (fm : FieldMap) (s : State) (imm : Word) (i : Instr) (code : Word) (taken : Prop),
    (i = .beq imm ∧ code = 0x0002#16 ∧ taken = (s.flagZ = true)) ∨
    (i = .bne imm ∧ code = 0x0003#16 ∧ taken = (s.flagZ = false)) ∨
    (i = .blt imm ∧ code = 0x0004#16 ∧ taken = (s.flagN = true)) ∨
    (i = .ble imm ∧ code = 0x0005#16 ∧ taken = (s.flagN = true ∨ s.flagZ = true)) ∨
    (i = .bge imm ∧ code = 0x0006#16 ∧ taken = (s.flagN = false)) ∨
    (i = .bgt imm ∧ code = 0x0007#16 ∧ taken = (s.flagN = false ∧ s.flagZ = false)) ∨
    (i = .bltu imm ∧ code = 0x0008#16 ∧ taken = (s.flagC = true)) ∨
    (i = .bleu imm ∧ code = 0x0009#16 ∧ taken = (s.flagC = true ∨ s.flagZ = true)) ∨
    (i = .bgeu imm ∧ code = 0x000A#16 ∧ taken = (s.flagC = false)) ∨
    (i = .bgtu imm ∧ code = 0x000B#16 ∧ taken = (s.flagC = false ∧ s.flagZ = false)) →
    encode fm i = [code, imm] ∧ i.length = 4 ∧ cycles i = 4 ∧
    ∃ t, exec i s = .next t ∧ (taken → t.pc = imm) ∧ (¬ taken → t.pc = s.pc) ∧ OnlyPc s t

/-- What the conditions mean after CMP: the unsigned branches are exact, the signed ones exact where the
signed difference fits 16 bits (R215, over C as borrow, D10). -/
def Obligations.BranchesAfterCompare : Prop :=
  ∀ (s : State) (r1 r2 : Reg) (imm : Word), ∃ t, exec (.cmp r1 r2) s = .next t ∧
    ∀ (i : Instr) (holds : Prop),
      (i = .beq imm ∧ holds = (s.reg r1 = s.reg r2)) ∨
      (i = .bne imm ∧ holds = (s.reg r1 ≠ s.reg r2)) ∨
      (i = .bltu imm ∧ holds = ((s.reg r1).toNat < (s.reg r2).toNat)) ∨
      (i = .bleu imm ∧ holds = ((s.reg r1).toNat ≤ (s.reg r2).toNat)) ∨
      (i = .bgeu imm ∧ holds = ((s.reg r1).toNat ≥ (s.reg r2).toNat)) ∨
      (i = .bgtu imm ∧ holds = ((s.reg r1).toNat > (s.reg r2).toNat)) ∨
      ((-32768 ≤ (s.reg r1).toInt - (s.reg r2).toInt ∧
          (s.reg r1).toInt - (s.reg r2).toInt ≤ 32767) ∧
        ((i = .blt imm ∧ holds = ((s.reg r1).toInt < (s.reg r2).toInt)) ∨
         (i = .ble imm ∧ holds = ((s.reg r1).toInt ≤ (s.reg r2).toInt)) ∨
         (i = .bge imm ∧ holds = ((s.reg r1).toInt ≥ (s.reg r2).toInt)) ∨
         (i = .bgt imm ∧ holds = ((s.reg r1).toInt > (s.reg r2).toInt)))) →
      ∃ u, exec i t = .next u ∧ (holds → u.pc = imm) ∧ (¬ holds → u.pc = t.pc)

/-- CALL, and EXEC r for r other than R15, push the address of the instruction after them at the bytes of
`STACK_CONVENTION` (D3) and go to the second word, or to x[r]. -/
def Obligations.CallAndExecPushReturnAddress : Prop :=
  ∀ (s : State) (i : Instr) (target : Word),
    i = .call target ∨ (∃ r, r ≠ SP ∧ i = .exec r ∧ target = s.reg r) →
    Usable s (2 ≤ (s.reg SP).toNat) →
    ∃ t, exec i s = .next t ∧ t.pc = target ∧ HoldsWord t s.pushTarget s.pc ∧
      t.reg SP = s.reg SP - 2 ∧ SameRegs s t [SP] ∧ SameFlags s t ∧
      SameMem s t [s.pushTarget, s.pushTarget + 1] ∧ SameStreams s t ∧ SameMode s t

/-- EXEC R15 runs and pushes; its target the spec leaves unspecified (U10), and the statement says nothing
of pc. That it runs is the model's choice, log entry 7. -/
def Obligations.ExecSpPushesReturnAddress : Prop :=
  ∀ s : State, Usable s (2 ≤ (s.reg SP).toNat) →
    ∃ t, exec (.exec SP) s = .next t ∧ HoldsWord t s.pushTarget s.pc ∧
      t.reg SP = s.reg SP - 2 ∧ SameRegs s t [SP] ∧ SameFlags s t ∧
      SameMem s t [s.pushTarget, s.pushTarget + 1] ∧ SameStreams s t ∧ SameMode s t

/-- RET goes to the word popped by the bytes of `STACK_CONVENTION` (D3) and raises SP by 2. -/
def Obligations.RetGoesToPoppedWord : Prop :=
  ∀ (s : State) (a : Word), Usable s ((s.reg SP).toNat + 2 < 65536) →
    a = (match s.config.stackConvention with
      | .fullDescending => s.reg SP
      | .emptyDescending => s.reg SP + 1) →
    ∃ t, exec .ret s = .next t ∧
      t.pc.toNat = (s.readByte a).toNat + 256 * (s.readByte (a + 1)).toNat ∧
      t.reg SP = s.reg SP + 2 ∧ SameRegs s t [SP] ∧ SameFlags s t ∧ SameMem s t [] ∧
      SameStreams s t ∧ SameMode s t

/-- CALL, or EXEC r for r other than R15, then RET comes back to the instruction after the call with every
register as before, under both stack conventions (C8, D3). -/
def Obligations.CallThenRetReturns : Prop :=
  ∀ (s : State) (i : Instr), (∃ imm, i = .call imm) ∨ (∃ r, r ≠ SP ∧ i = .exec r) →
    Usable s (2 ≤ (s.reg SP).toNat) →
    ∃ t u, exec i s = .next t ∧ exec .ret t = .next u ∧ u.pc = s.pc ∧ SameRegs s u []

/-! System. -/

/-- HALT whole: pc and the flags cleared, H set, nothing else changed; its word, bytes and cycles
(R230). -/
def Obligations.HaltClearsPcAndFlags : Prop :=
  ∀ (fm : FieldMap) (s : State),
    encode fm .halt = [0x0000#16] ∧ Instr.halt.length = 2 ∧ cycles .halt = 2 ∧
    ∃ t, exec .halt s = .next t ∧ t.pc = 0#16 ∧ t.flagZ = false ∧ t.flagN = false ∧
      t.flagC = false ∧ t.halted = true ∧ SameRegs s t [] ∧ SameMem s t [] ∧ SameStreams s t ∧
      t.config = s.config

/-- A halted machine stays as it is however long it is run (R231; that a step then answers the same state
is the model's choice, log entry 12; that the halt is final is the spec's choice D24). -/
def Obligations.HaltedMachineStaysAsItIs : Prop :=
  ∀ (s : State) (k : Nat), s.halted = true → core.run k s = .next s

/-- A machine about to fetch the word 0x0000 ends its run normally (R91, R230, R231). -/
def Obligations.ZeroedMemoryHalts : Prop :=
  ∀ s : State, s.halted = false → s.readByte s.pc = 0 → s.readByte (s.pc + 1) = 0 →
    Usable s (s.pc.toNat + 2 < 65536) → EndsNormally s

/-- REGS and DUMP change nothing outside debugging mode; in it they change nothing but standard output, to
which they append a text the spec does not give (R232, R233, U6; log entry 11). -/
def Obligations.DisplaysChangeOnlyOutput : Prop :=
  ∀ (s : State) (i : Instr), i = .regs ∨ i = .dump →
    ∃ t text, exec i s = .next t ∧ t.stdout = s.stdout ++ text ∧
      (s.config.debugMode = false → text = [] ∧ t = s) ∧
      t.stdin = s.stdin ∧ t.stdinPos = s.stdinPos ∧ SameRegs s t [] ∧ SameFlags s t ∧
      t.pc = s.pc ∧ SameMem s t [] ∧ SameMode s t

/-! The whole machine. -/

/-- Every instruction leaves every general register alone but those the table of R23 lists as written. -/
def Obligations.OnlyListedRegistersChange : Prop :=
  ∀ (i : Instr) (s t : State), exec i s = .next t → SameRegs s t (destinations s.config i)

/-- Every instruction the table of R32 does not list as a flag writer leaves Z, N and C alone, and only
HALT writes H (R34). -/
def Obligations.OnlyListedInstructionsWriteFlags : Prop :=
  ∀ (i : Instr) (s t : State), exec i s = .next t →
    (writesFlags i = false → SameFlags s t) ∧ (i ≠ .halt → t.halted = s.halted)

/-- Every flag writer but HALT and the comparisons sets Z and N from the word it leaves in its destination
(R28, R29, R32; D33 for the truncated result). -/
def Obligations.FlagsFollowResult : Prop :=
  ∀ (i : Instr) (s t : State) (r : Reg), exec i s = .next t → writesFlags i = true → i ≠ .halt →
    r ∈ destinations s.config i → FlagsOf t (t.reg r)

/-- Every instruction leaves every byte of memory alone but those of the table of R59 it stores to. -/
def Obligations.OnlyStoredBytesChange : Prop :=
  ∀ (i : Instr) (s t : State), exec i s = .next t → SameMem s t (storedTo s i)

/-- The streams: only IN reads, one byte; only OUT, REGS and DUMP write; output is never taken back, and
the input and the configuration of a run are never changed (R37, R38, R39; the configuration standing in
the state is the model's choice, log entry 1). -/
def Obligations.StreamsAndConfigurationFrame : Prop :=
  ∀ (i : Instr) (s t : State), exec i s = .next t →
    t.stdin = s.stdin ∧ t.config = s.config ∧
    ((∀ r, i ≠ .inp r) → t.stdinPos = s.stdinPos) ∧
    ((∃ r, i = .inp r) → t.stdinPos = s.stdinPos + 1) ∧
    ((∀ r, i ≠ .out r) → i ≠ .regs → i ≠ .dump → t.stdout = s.stdout) ∧
    ∃ text, t.stdout = s.stdout ++ text

/-- Every instruction outside the branch family and HALT goes on to the next one (R25). -/
def Obligations.OnlyBranchesAndHaltMovePc : Prop :=
  ∀ (i : Instr) (s t : State), exec i s = .next t →
    i.format ≠ .x → (∀ r, i ≠ .jump r) → (∀ r, i ≠ .exec r) → i ≠ .ret → i ≠ .halt → t.pc = s.pc

/-- Under the default values of ADDR_WRAP, DIV_OVERFLOW and IN_AT_EOF (the spec's choices D4, D16, D22)
every instruction runs but a division by 0 and an IN at the end of input: the faults of R242 and R243 are
all there are (R244), and each leaves the machine unchanged (R241). That POP R15 and EXEC R15 run, which
U9 and U10 would have a model refuse, is the model's choice, log entries 6 and 7. -/
def Obligations.ListedFaultsAreAll : Prop :=
  ∀ (i : Instr) (s : State), s.config.addrWrap = .wrap → s.config.divOverflow = .wrap →
    s.config.inAtEof = .fault →
    (∃ t, exec i s = .next t) ∨
    (exec i s = .fault (.divideByZero (s.pc - 2) s) ∧
      ((∃ r1 r2 rt, (i = .div r1 r2 rt ∨ i = .mod r1 r2 rt) ∧ s.reg r2 = 0#16) ∨
       (∃ r, i = .divq r 0 ∨ i = .modq r 0))) ∨
    (exec i s = .fault (.inputExhausted (s.pc - 2) s) ∧ s.stdin.length ≤ s.stdinPos ∧
      ∃ r, i = .inp r)

/-- Under `ADDR_WRAP` = fault an instruction that computes an address past 0xFFFF or below 0 stops with no
effect (D4, U15; which computations count is DEDUCED, log entry 13). The last clause, a wrapping fetch: that
it leaves the machine as before the step, pc not advanced, is the model's own, DEDUCED, log entry 16. -/
def Obligations.AddressWrapStopsWhereConfigured : Prop :=
  ∀ s : State, s.config.addrWrap = .fault →
    (∀ (r : Reg) (imm : Word) (i : Instr), i = .lw r imm ∨ i = .stw r imm → imm.toNat = 65535 →
      exec i s = .fault (.addressWrap (s.pc - 4) s)) ∧
    (∀ (r rx : Reg) (o : Nibble) (i : Instr),
      ((i = .lbx r rx o ∨ i = .stbx r rx o) ∧ 65536 ≤ (s.reg rx).toNat + o.toNat) ∨
      ((i = .lwx r rx o ∨ i = .stwx r rx o) ∧ 65535 ≤ (s.reg rx).toNat + o.toNat) →
      exec i s = .fault (.addressWrap (s.pc - 2) s)) ∧
    ((s.reg SP).toNat < 2 →
      (∀ r, exec (.push r) s = .fault (.addressWrap (s.pc - 2) s) ∧
        exec (.exec r) s = .fault (.addressWrap (s.pc - 2) s)) ∧
      (∀ imm, exec (.call imm) s = .fault (.addressWrap (s.pc - 4) s))) ∧
    (65534 ≤ (s.reg SP).toNat →
      (∀ r, exec (.pop r) s = .fault (.addressWrap (s.pc - 2) s)) ∧
      exec .ret s = .fault (.addressWrap (s.pc - 2) s)) ∧
    (s.halted = false → 65536 ≤ s.pc.toNat + s.fetch.length →
      step s = .fault (.addressWrap s.pc s))

/-- A step runs the decoded instruction: where the bytes at pc decode to i, the step is exec of i on the
machine whose pc is past i (R10, D6). -/
def Obligations.StepRunsDecodedInstruction : Prop :=
  ∀ (s : State) (i : Instr) (rest : List Byte), s.halted = false →
    decode s.config.fieldMap s.fetchBytes = .ok (i, rest) →
    Usable s (s.pc.toNat + i.length < 65536) →
    step s = exec i { s with pc := s.pc + BitVec.ofNat 16 i.length }

/-- A store is seen by the very next fetch: STW of x[r] onto the next instruction makes the next
instruction the one x[r] encodes (R69, D27). -/
def Obligations.StoreSeenByNextFetch : Prop :=
  ∀ (s : State) (r : Reg), Usable s (s.pc.toNat + 1 < 65536) →
    ∃ t, exec (.stw r s.pc) s = .next t ∧ t.pc = s.pc ∧
      t.fetch = decodeWords s.config.fieldMap (s.reg r) (s.readWord (s.pc + 2))

/-- Every step keeps the invariant: memory in canonical form, the read position within the input, Z and N
never both set, a halted machine with pc 0 and its flags clear (R231). -/
def Obligations.StepKeepsInvariant : Prop :=
  ∀ s t : State, s.Inv → step s = .next t → t.Inv

/-- The reset machine has the invariant, and so has every start state whose image is in canonical form,
under the default `RESET_STATE` (D7) and under any other that sets not both Z and N and that, if it
starts halted, has pc 0 and the flags clear. -/
def Obligations.StartStateHasInvariant : Prop :=
  State.reset.Inv ∧
  ∀ (config : Config) (image : Memory) (input : List Byte), Memory.wf image = true →
    (∀ regs, (State.start config (ResetState.defaults regs) image input).Inv) ∧
    (∀ init : ResetState, ¬ (init.flagZ = true ∧ init.flagN = true) →
      (init.halted = true → init.pc = 0#16 ∧ init.flagZ = false ∧ init.flagN = false ∧
        init.flagC = false) →
      (State.start config init image input).Inv)

/-- What a start leaves, whatever the host supplies: the registers, pc and flags of `RESET_STATE` (R6), its
image as memory (D8), its input at position 0, no output; and under the default `RESET_STATE`, and after
reset: pc 0, Z, N, C and H clear, SP 0xFFFF (R42 and R270, the spec's choices D7, D22, D23). -/
def Obligations.StartStateValues : Prop :=
  (∀ (config : Config) (init : ResetState) (image : Memory) (input : List Byte) (s : State),
    s = State.start config init image input →
    s.pc = init.pc ∧ s.flagZ = init.flagZ ∧ s.flagN = init.flagN ∧ s.flagC = init.flagC ∧
    s.halted = init.halted ∧ (∀ r : Reg, s.reg r = init.regs[r.toNat]'r.isLt) ∧
    s.mem = image ∧ s.stdin = input ∧ s.stdinPos = 0 ∧ s.stdout = [] ∧ s.config = config) ∧
  (∀ (config : Config) (regs : Vector Word 16) (image : Memory) (input : List Byte) (s : State),
    s = State.start config (ResetState.defaults regs) image input ∨ s = State.reset →
    s.pc = 0#16 ∧ s.flagZ = false ∧ s.flagN = false ∧ s.flagC = false ∧ s.halted = false ∧
    s.reg SP = 0xFFFF#16 ∧ s.stdinPos = 0 ∧ s.stdout = [] ∧
    (s = State.start config (ResetState.defaults regs) image input →
      ∀ r : Reg, r ≠ SP → s.reg r = regs[r.toNat]'r.isLt))

/-- Cycle counts are 2 for each word, 1 for each byte of data memory, 1 more for IN, OUT, MUL and MULQ and
2 more for the divisions (the pattern of R282; MOV, ABS, SAL and MOD by the spec's choice D31). -/
def Obligations.CycleCountsFollowPattern : Prop :=
  ∀ (i : Instr) (extra : Nat),
    (((∃ r, i = .inp r ∨ i = .out r) ∨ (∃ a b t, i = .mul a b t) ∨ (∃ r v, i = .mulq r v)) ∧
      extra = 1) ∨
    (((∃ a b t, i = .div a b t ∨ i = .mod a b t) ∨ (∃ r v, i = .divq r v ∨ i = .modq r v)) ∧
      extra = 2) ∨
    ((∀ r, i ≠ .inp r ∧ i ≠ .out r) ∧ (∀ a b t, i ≠ .mul a b t ∧ i ≠ .div a b t ∧ i ≠ .mod a b t) ∧
      (∀ r v, i ≠ .mulq r v ∧ i ≠ .divq r v ∧ i ≠ .modq r v) ∧ extra = 0) →
    cycles i = i.length + dataBytes i + extra
end

