-- ==== Sys2Proof/Laws/Decode.lean ====
section
/-! SUPPORT. Bytes, hex digits and field orders: each packing undone by its unpacking. -/

namespace Sys2Proof

/-! Bytes of a word. -/

theorem joinBytes_getLsbD (lo hi : Byte) (i : Nat) :
    (joinBytes lo hi).getLsbD i = if i < 8 then lo.getLsbD i else hi.getLsbD (i - 8) :=
  BitVec.getLsbD_append

@[simp] theorem lowByte_joinBytes (lo hi : Byte) : lowByte (joinBytes lo hi) = lo := by
  apply BitVec.eq_of_getLsbD_eq
  intro i h
  simp [lowByte, joinBytes_getLsbD, h]

@[simp] theorem highByte_joinBytes (lo hi : Byte) : highByte (joinBytes lo hi) = hi := by
  apply BitVec.eq_of_getLsbD_eq
  intro i h
  simp [highByte, joinBytes_getLsbD, h]

@[simp] theorem joinBytes_low_high (w : Word) : joinBytes (lowByte w) (highByte w) = w := by
  apply BitVec.eq_of_getLsbD_eq
  intro i h
  rw [joinBytes_getLsbD]
  split
  · simp [lowByte, *]
  · simp [highByte, show i - 8 < 8 by omega, show 8 + (i - 8) = i by omega]

theorem joinBytes_toNat (lo hi : Byte) : (joinBytes lo hi).toNat = lo.toNat + 256 * hi.toNat := by
  unfold joinBytes
  rw [BitVec.toNat_append, Nat.shiftLeft_eq, Nat.mul_comm, ← Nat.two_pow_add_eq_or_of_lt lo.isLt]
  omega

/-! Hex digits of a word. -/

theorem nibble_getLsbD (w : Word) (k i : Nat) :
    (nibble w k).getLsbD i = (decide (i < 4) && w.getLsbD (4 * k + i)) := by
  simp [nibble]

theorem packNibbles_getLsbD (n3 n2 n1 n0 : Nibble) (i : Nat) :
    (packNibbles n3 n2 n1 n0).getLsbD i =
      if i < 4 then n0.getLsbD i else if i < 8 then n1.getLsbD (i - 4)
      else if i < 12 then n2.getLsbD (i - 8) else n3.getLsbD (i - 12) := by
  have h : (packNibbles n3 n2 n1 n0).getLsbD i =
      if i < 4 then n0.getLsbD i else if i - 4 < 4 then n1.getLsbD (i - 4)
      else if i - 4 - 4 < 4 then n2.getLsbD (i - 4 - 4) else n3.getLsbD (i - 4 - 4 - 4) := by
    unfold packNibbles
    rw [BitVec.getLsbD_append, BitVec.getLsbD_append, BitVec.getLsbD_append]
  rw [h, show i - 4 - 4 - 4 = i - 12 by omega, show i - 4 - 4 = i - 8 by omega]
  simp only [show (i - 4 < 4) = (i < 8) by simp; omega, show (i - 8 < 4) = (i < 12) by simp; omega]

@[simp] theorem nibble0_packNibbles (n3 n2 n1 n0 : Nibble) :
    nibble (packNibbles n3 n2 n1 n0) 0 = n0 := by
  apply BitVec.eq_of_getLsbD_eq
  intro i h
  rw [nibble_getLsbD, packNibbles_getLsbD, if_pos (by omega)]
  simp [h]

@[simp] theorem nibble1_packNibbles (n3 n2 n1 n0 : Nibble) :
    nibble (packNibbles n3 n2 n1 n0) 1 = n1 := by
  apply BitVec.eq_of_getLsbD_eq
  intro i h
  rw [nibble_getLsbD, packNibbles_getLsbD, if_neg (by omega), if_pos (by omega)]
  simp [h]

@[simp] theorem nibble2_packNibbles (n3 n2 n1 n0 : Nibble) :
    nibble (packNibbles n3 n2 n1 n0) 2 = n2 := by
  apply BitVec.eq_of_getLsbD_eq
  intro i h
  rw [nibble_getLsbD, packNibbles_getLsbD, if_neg (by omega), if_neg (by omega), if_pos (by omega)]
  simp [h]

@[simp] theorem nibble3_packNibbles (n3 n2 n1 n0 : Nibble) :
    nibble (packNibbles n3 n2 n1 n0) 3 = n3 := by
  apply BitVec.eq_of_getLsbD_eq
  intro i h
  rw [nibble_getLsbD, packNibbles_getLsbD, if_neg (by omega), if_neg (by omega), if_neg (by omega)]
  simp [h]

/-- A word is its four hex digits. -/
theorem packNibbles_nibbles (w : Word) :
    packNibbles (nibble w 3) (nibble w 2) (nibble w 1) (nibble w 0) = w := by
  apply BitVec.eq_of_getLsbD_eq
  intro i h
  simp only [packNibbles_getLsbD, nibble_getLsbD]
  split
  · simp_all
  · split
    · rw [show 4 * 1 + (i - 4) = i by omega]; simp; omega
    · split
      · rw [show 4 * 2 + (i - 8) = i by omega]; simp; omega
      · rw [show 4 * 3 + (i - 12) = i by omega]; simp; omega

/-- A property of hex digits holds if it holds of the sixteen of them. -/
theorem nibble_cases {P : Nibble → Prop} (h0 : P 0x0#4) (h1 : P 0x1#4) (h2 : P 0x2#4) (h3 : P 0x3#4)
    (h4 : P 0x4#4) (h5 : P 0x5#4) (h6 : P 0x6#4) (h7 : P 0x7#4) (h8 : P 0x8#4) (h9 : P 0x9#4)
    (hA : P 0xA#4) (hB : P 0xB#4) (hC : P 0xC#4) (hD : P 0xD#4) (hE : P 0xE#4) (hF : P 0xF#4)
    (n : Nibble) : P n := by
  have h : n = 0x0#4 ∨ n = 0x1#4 ∨ n = 0x2#4 ∨ n = 0x3#4 ∨ n = 0x4#4 ∨ n = 0x5#4 ∨ n = 0x6#4 ∨
      n = 0x7#4 ∨ n = 0x8#4 ∨ n = 0x9#4 ∨ n = 0xA#4 ∨ n = 0xB#4 ∨ n = 0xC#4 ∨ n = 0xD#4 ∨
      n = 0xE#4 ∨ n = 0xF#4 := by
    revert n; decide
  rcases h with h | h | h | h | h | h | h | h | h | h | h | h | h | h | h | h <;> subst h <;>
    assumption

/-! Field orders (R87). -/

@[simp] theorem FieldOrder2.pick_place (o : FieldOrder2) (a b : Nibble) :
    o.pick (o.place a b).1 (o.place a b).2 = (a, b) := by cases o <;> rfl

@[simp] theorem FieldOrder2.place_pick (o : FieldOrder2) (n0 n1 : Nibble) :
    o.place (o.pick n0 n1).1 (o.pick n0 n1).2 = (n0, n1) := by cases o <;> rfl

@[simp] theorem FieldOrder3.pick_place (o : FieldOrder3) (a b c : Nibble) :
    o.pick (o.place a b c).1 (o.place a b c).2.1 (o.place a b c).2.2 = (a, b, c) := by
  cases o <;> rfl

@[simp] theorem FieldOrder3.place_pick (o : FieldOrder3) (n0 n1 n2 : Nibble) :
    o.place (o.pick n0 n1 n2).1 (o.pick n0 n1 n2).2.1 (o.pick n0 n1 n2).2.2 = (n0, n1, n2) := by
  cases o <;> rfl

end Sys2Proof
end

