-- ==== Sys2Proof/Laws/State.lean ====
section
/-! SUPPORT. What each update of the state does to each field: one lemma for each, so that no proof
unfolds a record update. -/

namespace Sys2Proof.Machine

variable (s : State)

/-! `State.writeByte` -/

@[simp] theorem State.writeByte_regs (a : Word) (b : Byte) : (s.writeByte a b).regs = s.regs :=
    rfl
@[simp] theorem State.writeByte_pc (a : Word) (b : Byte) : (s.writeByte a b).pc = s.pc := rfl
@[simp] theorem State.writeByte_flagZ (a : Word) (b : Byte) : (s.writeByte a b).flagZ = s.flagZ :=
    rfl
@[simp] theorem State.writeByte_flagN (a : Word) (b : Byte) : (s.writeByte a b).flagN = s.flagN :=
    rfl
@[simp] theorem State.writeByte_flagC (a : Word) (b : Byte) : (s.writeByte a b).flagC = s.flagC :=
    rfl
@[simp] theorem State.writeByte_halted (a : Word) (b : Byte) :
    (s.writeByte a b).halted = s.halted := rfl
@[simp] theorem State.writeByte_mem (a : Word) (b : Byte) :
    (s.writeByte a b).mem = Memory.write s.mem a.toNat b := rfl
@[simp] theorem State.writeByte_stdin (a : Word) (b : Byte) : (s.writeByte a b).stdin = s.stdin :=
    rfl
@[simp] theorem State.writeByte_stdinPos (a : Word) (b : Byte) :
    (s.writeByte a b).stdinPos = s.stdinPos := rfl
@[simp] theorem State.writeByte_stdout (a : Word) (b : Byte) :
    (s.writeByte a b).stdout = s.stdout := rfl
@[simp] theorem State.writeByte_config (a : Word) (b : Byte) :
    (s.writeByte a b).config = s.config := rfl
@[simp] theorem State.writeByte_draws (a : Word) (b : Byte) : (s.writeByte a b).draws = s.draws :=
    rfl
@[simp] theorem State.writeByte_reg (a : Word) (b : Byte) (r : Reg) : (s.writeByte a b).reg r = s.reg r :=
    rfl

/-! `State.writeWord` -/

@[simp] theorem State.writeWord_regs (a v : Word) : (s.writeWord a v).regs = s.regs := rfl
@[simp] theorem State.writeWord_pc (a v : Word) : (s.writeWord a v).pc = s.pc := rfl
@[simp] theorem State.writeWord_flagZ (a v : Word) : (s.writeWord a v).flagZ = s.flagZ := rfl
@[simp] theorem State.writeWord_flagN (a v : Word) : (s.writeWord a v).flagN = s.flagN := rfl
@[simp] theorem State.writeWord_flagC (a v : Word) : (s.writeWord a v).flagC = s.flagC := rfl
@[simp] theorem State.writeWord_halted (a v : Word) : (s.writeWord a v).halted = s.halted := rfl
@[simp] theorem State.writeWord_mem (a v : Word) :
    (s.writeWord a v).mem = Memory.write (Memory.write s.mem a.toNat (lowByte v)) (a + 1).toNat (highByte v) := rfl
@[simp] theorem State.writeWord_stdin (a v : Word) : (s.writeWord a v).stdin = s.stdin := rfl
@[simp] theorem State.writeWord_stdinPos (a v : Word) : (s.writeWord a v).stdinPos = s.stdinPos :=
    rfl
@[simp] theorem State.writeWord_stdout (a v : Word) : (s.writeWord a v).stdout = s.stdout := rfl
@[simp] theorem State.writeWord_config (a v : Word) : (s.writeWord a v).config = s.config := rfl
@[simp] theorem State.writeWord_draws (a v : Word) : (s.writeWord a v).draws = s.draws := rfl
@[simp] theorem State.writeWord_reg (a v : Word) (r : Reg) : (s.writeWord a v).reg r = s.reg r :=
    rfl

/-! `State.setReg` -/

@[simp] theorem State.setReg_regs (r : Reg) (v : Word) :
    (s.setReg r v).regs = s.regs.set r.toNat v r.isLt := rfl
@[simp] theorem State.setReg_pc (r : Reg) (v : Word) : (s.setReg r v).pc = s.pc := rfl
@[simp] theorem State.setReg_flagZ (r : Reg) (v : Word) : (s.setReg r v).flagZ = s.flagZ := rfl
@[simp] theorem State.setReg_flagN (r : Reg) (v : Word) : (s.setReg r v).flagN = s.flagN := rfl
@[simp] theorem State.setReg_flagC (r : Reg) (v : Word) : (s.setReg r v).flagC = s.flagC := rfl
@[simp] theorem State.setReg_halted (r : Reg) (v : Word) : (s.setReg r v).halted = s.halted := rfl
@[simp] theorem State.setReg_mem (r : Reg) (v : Word) : (s.setReg r v).mem = s.mem := rfl
@[simp] theorem State.setReg_stdin (r : Reg) (v : Word) : (s.setReg r v).stdin = s.stdin := rfl
@[simp] theorem State.setReg_stdinPos (r : Reg) (v : Word) :
    (s.setReg r v).stdinPos = s.stdinPos := rfl
@[simp] theorem State.setReg_stdout (r : Reg) (v : Word) : (s.setReg r v).stdout = s.stdout := rfl
@[simp] theorem State.setReg_config (r : Reg) (v : Word) : (s.setReg r v).config = s.config := rfl
@[simp] theorem State.setReg_draws (r : Reg) (v : Word) : (s.setReg r v).draws = s.draws := rfl
@[simp] theorem State.setReg_readByte (r : Reg) (v : Word) (a : Word) :
    (s.setReg r v).readByte a = s.readByte a := rfl

/-! `State.setPc` -/

@[simp] theorem State.setPc_regs (t : Word) : (s.setPc t).regs = s.regs := rfl
@[simp] theorem State.setPc_pc (t : Word) : (s.setPc t).pc = t := rfl
@[simp] theorem State.setPc_flagZ (t : Word) : (s.setPc t).flagZ = s.flagZ := rfl
@[simp] theorem State.setPc_flagN (t : Word) : (s.setPc t).flagN = s.flagN := rfl
@[simp] theorem State.setPc_flagC (t : Word) : (s.setPc t).flagC = s.flagC := rfl
@[simp] theorem State.setPc_halted (t : Word) : (s.setPc t).halted = s.halted := rfl
@[simp] theorem State.setPc_mem (t : Word) : (s.setPc t).mem = s.mem := rfl
@[simp] theorem State.setPc_stdin (t : Word) : (s.setPc t).stdin = s.stdin := rfl
@[simp] theorem State.setPc_stdinPos (t : Word) : (s.setPc t).stdinPos = s.stdinPos := rfl
@[simp] theorem State.setPc_stdout (t : Word) : (s.setPc t).stdout = s.stdout := rfl
@[simp] theorem State.setPc_config (t : Word) : (s.setPc t).config = s.config := rfl
@[simp] theorem State.setPc_draws (t : Word) : (s.setPc t).draws = s.draws := rfl
@[simp] theorem State.setPc_reg (t : Word) (r : Reg) : (s.setPc t).reg r = s.reg r := rfl
@[simp] theorem State.setPc_readByte (t : Word) (a : Word) :
    (s.setPc t).readByte a = s.readByte a := rfl

/-! `State.advance` -/

@[simp] theorem State.advance_regs (n : Nat) : (s.advance n).regs = s.regs := rfl
@[simp] theorem State.advance_pc (n : Nat) : (s.advance n).pc = s.pc + BitVec.ofNat 16 n := rfl
@[simp] theorem State.advance_flagZ (n : Nat) : (s.advance n).flagZ = s.flagZ := rfl
@[simp] theorem State.advance_flagN (n : Nat) : (s.advance n).flagN = s.flagN := rfl
@[simp] theorem State.advance_flagC (n : Nat) : (s.advance n).flagC = s.flagC := rfl
@[simp] theorem State.advance_halted (n : Nat) : (s.advance n).halted = s.halted := rfl
@[simp] theorem State.advance_mem (n : Nat) : (s.advance n).mem = s.mem := rfl
@[simp] theorem State.advance_stdin (n : Nat) : (s.advance n).stdin = s.stdin := rfl
@[simp] theorem State.advance_stdinPos (n : Nat) : (s.advance n).stdinPos = s.stdinPos := rfl
@[simp] theorem State.advance_stdout (n : Nat) : (s.advance n).stdout = s.stdout := rfl
@[simp] theorem State.advance_config (n : Nat) : (s.advance n).config = s.config := rfl
@[simp] theorem State.advance_draws (n : Nat) : (s.advance n).draws = s.draws := rfl
@[simp] theorem State.advance_reg (n : Nat) (r : Reg) : (s.advance n).reg r = s.reg r := rfl
@[simp] theorem State.advance_readByte (n : Nat) (a : Word) :
    (s.advance n).readByte a = s.readByte a := rfl

/-! `State.setZN` -/

@[simp] theorem State.setZN_regs (v : Word) : (s.setZN v).regs = s.regs := rfl
@[simp] theorem State.setZN_pc (v : Word) : (s.setZN v).pc = s.pc := rfl
@[simp] theorem State.setZN_flagZ (v : Word) : (s.setZN v).flagZ = decide (v = 0#16) := rfl
@[simp] theorem State.setZN_flagN (v : Word) : (s.setZN v).flagN = v.msb := rfl
@[simp] theorem State.setZN_flagC (v : Word) : (s.setZN v).flagC = s.flagC := rfl
@[simp] theorem State.setZN_halted (v : Word) : (s.setZN v).halted = s.halted := rfl
@[simp] theorem State.setZN_mem (v : Word) : (s.setZN v).mem = s.mem := rfl
@[simp] theorem State.setZN_stdin (v : Word) : (s.setZN v).stdin = s.stdin := rfl
@[simp] theorem State.setZN_stdinPos (v : Word) : (s.setZN v).stdinPos = s.stdinPos := rfl
@[simp] theorem State.setZN_stdout (v : Word) : (s.setZN v).stdout = s.stdout := rfl
@[simp] theorem State.setZN_config (v : Word) : (s.setZN v).config = s.config := rfl
@[simp] theorem State.setZN_draws (v : Word) : (s.setZN v).draws = s.draws := rfl
@[simp] theorem State.setZN_reg (v : Word) (r : Reg) : (s.setZN v).reg r = s.reg r := rfl
@[simp] theorem State.setZN_readByte (v : Word) (a : Word) :
    (s.setZN v).readByte a = s.readByte a := rfl

/-! `State.setCarry` -/

@[simp] theorem State.setCarry_regs (c : Option Bool) : (s.setCarry c).regs = s.regs :=
    by cases c <;> rfl
@[simp] theorem State.setCarry_pc (c : Option Bool) : (s.setCarry c).pc = s.pc :=
    by cases c <;> rfl
@[simp] theorem State.setCarry_flagZ (c : Option Bool) : (s.setCarry c).flagZ = s.flagZ :=
    by cases c <;> rfl
@[simp] theorem State.setCarry_flagN (c : Option Bool) : (s.setCarry c).flagN = s.flagN :=
    by cases c <;> rfl
@[simp] theorem State.setCarry_halted (c : Option Bool) : (s.setCarry c).halted = s.halted :=
    by cases c <;> rfl
@[simp] theorem State.setCarry_mem (c : Option Bool) : (s.setCarry c).mem = s.mem :=
    by cases c <;> rfl
@[simp] theorem State.setCarry_stdin (c : Option Bool) : (s.setCarry c).stdin = s.stdin :=
    by cases c <;> rfl
@[simp] theorem State.setCarry_stdinPos (c : Option Bool) : (s.setCarry c).stdinPos = s.stdinPos :=
    by cases c <;> rfl
@[simp] theorem State.setCarry_stdout (c : Option Bool) : (s.setCarry c).stdout = s.stdout :=
    by cases c <;> rfl
@[simp] theorem State.setCarry_config (c : Option Bool) : (s.setCarry c).config = s.config :=
    by cases c <;> rfl
@[simp] theorem State.setCarry_reg (c : Option Bool) (r : Reg) : (s.setCarry c).reg r = s.reg r :=
    by cases c <;> rfl
@[simp] theorem State.setCarry_readByte (c : Option Bool) (a : Word) :
    (s.setCarry c).readByte a = s.readByte a := by cases c <;> rfl

/-! `State.setRegFree` -/

@[simp] theorem State.setRegFree_regs (r : Reg) :
    (s.setRegFree r).regs = s.regs.set r.toNat (Config.freeWord s.draws) r.isLt := rfl
@[simp] theorem State.setRegFree_pc (r : Reg) : (s.setRegFree r).pc = s.pc := rfl
@[simp] theorem State.setRegFree_flagZ (r : Reg) : (s.setRegFree r).flagZ = s.flagZ := rfl
@[simp] theorem State.setRegFree_flagN (r : Reg) : (s.setRegFree r).flagN = s.flagN := rfl
@[simp] theorem State.setRegFree_flagC (r : Reg) : (s.setRegFree r).flagC = s.flagC := rfl
@[simp] theorem State.setRegFree_halted (r : Reg) : (s.setRegFree r).halted = s.halted := rfl
@[simp] theorem State.setRegFree_mem (r : Reg) : (s.setRegFree r).mem = s.mem := rfl
@[simp] theorem State.setRegFree_stdin (r : Reg) : (s.setRegFree r).stdin = s.stdin := rfl
@[simp] theorem State.setRegFree_stdinPos (r : Reg) : (s.setRegFree r).stdinPos = s.stdinPos :=
    rfl
@[simp] theorem State.setRegFree_stdout (r : Reg) : (s.setRegFree r).stdout = s.stdout := rfl
@[simp] theorem State.setRegFree_config (r : Reg) : (s.setRegFree r).config = s.config := rfl
@[simp] theorem State.setRegFree_draws (r : Reg) : (s.setRegFree r).draws = s.draws + 1 := rfl
@[simp] theorem State.setRegFree_readByte (r : Reg) (a : Word) :
    (s.setRegFree r).readByte a = s.readByte a := rfl

/-! `State.setPcFree` -/

@[simp] theorem State.setPcFree_regs : (s.setPcFree).regs = s.regs := rfl
@[simp] theorem State.setPcFree_pc : (s.setPcFree).pc = Config.freeWord s.draws := rfl
@[simp] theorem State.setPcFree_flagZ : (s.setPcFree).flagZ = s.flagZ := rfl
@[simp] theorem State.setPcFree_flagN : (s.setPcFree).flagN = s.flagN := rfl
@[simp] theorem State.setPcFree_flagC : (s.setPcFree).flagC = s.flagC := rfl
@[simp] theorem State.setPcFree_halted : (s.setPcFree).halted = s.halted := rfl
@[simp] theorem State.setPcFree_mem : (s.setPcFree).mem = s.mem := rfl
@[simp] theorem State.setPcFree_stdin : (s.setPcFree).stdin = s.stdin := rfl
@[simp] theorem State.setPcFree_stdinPos : (s.setPcFree).stdinPos = s.stdinPos := rfl
@[simp] theorem State.setPcFree_stdout : (s.setPcFree).stdout = s.stdout := rfl
@[simp] theorem State.setPcFree_config : (s.setPcFree).config = s.config := rfl
@[simp] theorem State.setPcFree_draws : (s.setPcFree).draws = s.draws + 1 := rfl
@[simp] theorem State.setPcFree_reg (r : Reg) : (s.setPcFree).reg r = s.reg r := rfl
@[simp] theorem State.setPcFree_readByte (a : Word) :
    (s.setPcFree).readByte a = s.readByte a := rfl

/-! `State.putByte` -/

@[simp] theorem State.putByte_regs (b : Byte) : (s.putByte b).regs = s.regs := rfl
@[simp] theorem State.putByte_pc (b : Byte) : (s.putByte b).pc = s.pc := rfl
@[simp] theorem State.putByte_flagZ (b : Byte) : (s.putByte b).flagZ = s.flagZ := rfl
@[simp] theorem State.putByte_flagN (b : Byte) : (s.putByte b).flagN = s.flagN := rfl
@[simp] theorem State.putByte_flagC (b : Byte) : (s.putByte b).flagC = s.flagC := rfl
@[simp] theorem State.putByte_halted (b : Byte) : (s.putByte b).halted = s.halted := rfl
@[simp] theorem State.putByte_mem (b : Byte) : (s.putByte b).mem = s.mem := rfl
@[simp] theorem State.putByte_stdin (b : Byte) : (s.putByte b).stdin = s.stdin := rfl
@[simp] theorem State.putByte_stdinPos (b : Byte) : (s.putByte b).stdinPos = s.stdinPos := rfl
@[simp] theorem State.putByte_stdout (b : Byte) : (s.putByte b).stdout = s.stdout ++ [b] := rfl
@[simp] theorem State.putByte_config (b : Byte) : (s.putByte b).config = s.config := rfl
@[simp] theorem State.putByte_draws (b : Byte) : (s.putByte b).draws = s.draws := rfl
@[simp] theorem State.putByte_reg (b : Byte) (r : Reg) : (s.putByte b).reg r = s.reg r := rfl
@[simp] theorem State.putByte_readByte (b : Byte) (a : Word) :
    (s.putByte b).readByte a = s.readByte a := rfl

/-! `State.push` -/

@[simp] theorem State.push_pc (v : Word) : (s.push v).pc = s.pc := rfl
@[simp] theorem State.push_flagZ (v : Word) : (s.push v).flagZ = s.flagZ := rfl
@[simp] theorem State.push_flagN (v : Word) : (s.push v).flagN = s.flagN := rfl
@[simp] theorem State.push_flagC (v : Word) : (s.push v).flagC = s.flagC := rfl
@[simp] theorem State.push_halted (v : Word) : (s.push v).halted = s.halted := rfl
@[simp] theorem State.push_stdin (v : Word) : (s.push v).stdin = s.stdin := rfl
@[simp] theorem State.push_stdinPos (v : Word) : (s.push v).stdinPos = s.stdinPos := rfl
@[simp] theorem State.push_stdout (v : Word) : (s.push v).stdout = s.stdout := rfl
@[simp] theorem State.push_config (v : Word) : (s.push v).config = s.config := rfl
@[simp] theorem State.push_draws (v : Word) : (s.push v).draws = s.draws := rfl

/-! `State.popped` -/

@[simp] theorem State.popped_pc : (s.popped).pc = s.pc := rfl
@[simp] theorem State.popped_flagZ : (s.popped).flagZ = s.flagZ := rfl
@[simp] theorem State.popped_flagN : (s.popped).flagN = s.flagN := rfl
@[simp] theorem State.popped_flagC : (s.popped).flagC = s.flagC := rfl
@[simp] theorem State.popped_halted : (s.popped).halted = s.halted := rfl
@[simp] theorem State.popped_mem : (s.popped).mem = s.mem := rfl
@[simp] theorem State.popped_stdin : (s.popped).stdin = s.stdin := rfl
@[simp] theorem State.popped_stdinPos : (s.popped).stdinPos = s.stdinPos := rfl
@[simp] theorem State.popped_stdout : (s.popped).stdout = s.stdout := rfl
@[simp] theorem State.popped_config : (s.popped).config = s.config := rfl
@[simp] theorem State.popped_draws : (s.popped).draws = s.draws := rfl
@[simp] theorem State.popped_readByte (a : Word) :
    (s.popped).readByte a = s.readByte a := rfl

/-! `State.setFlags` -/

@[simp] theorem State.setFlags_regs (x : AluResult) : (s.setFlags x).regs = s.regs :=
    by cases x with | mk v c => cases c <;> rfl
@[simp] theorem State.setFlags_pc (x : AluResult) : (s.setFlags x).pc = s.pc :=
    by cases x with | mk v c => cases c <;> rfl
@[simp] theorem State.setFlags_flagZ (x : AluResult) :
    (s.setFlags x).flagZ = decide (x.value = 0#16) := by cases x with | mk v c => cases c <;> rfl
@[simp] theorem State.setFlags_flagN (x : AluResult) : (s.setFlags x).flagN = x.value.msb :=
    by cases x with | mk v c => cases c <;> rfl
@[simp] theorem State.setFlags_halted (x : AluResult) : (s.setFlags x).halted = s.halted :=
    by cases x with | mk v c => cases c <;> rfl
@[simp] theorem State.setFlags_mem (x : AluResult) : (s.setFlags x).mem = s.mem :=
    by cases x with | mk v c => cases c <;> rfl
@[simp] theorem State.setFlags_stdin (x : AluResult) : (s.setFlags x).stdin = s.stdin :=
    by cases x with | mk v c => cases c <;> rfl
@[simp] theorem State.setFlags_stdinPos (x : AluResult) : (s.setFlags x).stdinPos = s.stdinPos :=
    by cases x with | mk v c => cases c <;> rfl
@[simp] theorem State.setFlags_stdout (x : AluResult) : (s.setFlags x).stdout = s.stdout :=
    by cases x with | mk v c => cases c <;> rfl
@[simp] theorem State.setFlags_config (x : AluResult) : (s.setFlags x).config = s.config :=
    by cases x with | mk v c => cases c <;> rfl
@[simp] theorem State.setFlags_reg (x : AluResult) (r : Reg) : (s.setFlags x).reg r = s.reg r :=
    by cases x with | mk v c => cases c <;> rfl
@[simp] theorem State.setFlags_readByte (x : AluResult) (a : Word) :
    (s.setFlags x).readByte a = s.readByte a :=
    by cases x with | mk v c => cases c <;> rfl

/-! `State.setResult` -/

@[simp] theorem State.setResult_regs (r : Reg) (x : AluResult) :
    (s.setResult r x).regs = s.regs.set r.toNat x.value r.isLt := by cases x with | mk v c => cases c <;> rfl
@[simp] theorem State.setResult_pc (r : Reg) (x : AluResult) : (s.setResult r x).pc = s.pc :=
    by cases x with | mk v c => cases c <;> rfl
@[simp] theorem State.setResult_flagZ (r : Reg) (x : AluResult) :
    (s.setResult r x).flagZ = decide (x.value = 0#16) := by cases x with | mk v c => cases c <;> rfl
@[simp] theorem State.setResult_flagN (r : Reg) (x : AluResult) :
    (s.setResult r x).flagN = x.value.msb := by cases x with | mk v c => cases c <;> rfl
@[simp] theorem State.setResult_halted (r : Reg) (x : AluResult) :
    (s.setResult r x).halted = s.halted := by cases x with | mk v c => cases c <;> rfl
@[simp] theorem State.setResult_mem (r : Reg) (x : AluResult) : (s.setResult r x).mem = s.mem :=
    by cases x with | mk v c => cases c <;> rfl
@[simp] theorem State.setResult_stdin (r : Reg) (x : AluResult) :
    (s.setResult r x).stdin = s.stdin := by cases x with | mk v c => cases c <;> rfl
@[simp] theorem State.setResult_stdinPos (r : Reg) (x : AluResult) :
    (s.setResult r x).stdinPos = s.stdinPos := by cases x with | mk v c => cases c <;> rfl
@[simp] theorem State.setResult_stdout (r : Reg) (x : AluResult) :
    (s.setResult r x).stdout = s.stdout := by cases x with | mk v c => cases c <;> rfl
@[simp] theorem State.setResult_config (r : Reg) (x : AluResult) :
    (s.setResult r x).config = s.config := by cases x with | mk v c => cases c <;> rfl
@[simp] theorem State.setResult_readByte (r : Reg) (x : AluResult) (a : Word) :
    (s.setResult r x).readByte a = s.readByte a :=
    by cases x with | mk v c => cases c <;> rfl

/-! `State.display` -/

@[simp] theorem State.display_regs : (s.display).regs = s.regs :=
    by unfold State.display; split <;> rfl
@[simp] theorem State.display_pc : (s.display).pc = s.pc := by unfold State.display; split <;> rfl
@[simp] theorem State.display_flagZ : (s.display).flagZ = s.flagZ :=
    by unfold State.display; split <;> rfl
@[simp] theorem State.display_flagN : (s.display).flagN = s.flagN :=
    by unfold State.display; split <;> rfl
@[simp] theorem State.display_flagC : (s.display).flagC = s.flagC :=
    by unfold State.display; split <;> rfl
@[simp] theorem State.display_halted : (s.display).halted = s.halted :=
    by unfold State.display; split <;> rfl
@[simp] theorem State.display_mem : (s.display).mem = s.mem :=
    by unfold State.display; split <;> rfl
@[simp] theorem State.display_stdin : (s.display).stdin = s.stdin :=
    by unfold State.display; split <;> rfl
@[simp] theorem State.display_stdinPos : (s.display).stdinPos = s.stdinPos :=
    by unfold State.display; split <;> rfl
@[simp] theorem State.display_config : (s.display).config = s.config :=
    by unfold State.display; split <;> rfl
@[simp] theorem State.display_reg (r : Reg) : (s.display).reg r = s.reg r :=
    by unfold State.display; split <;> rfl
@[simp] theorem State.display_readByte (a : Word) :
    (s.display).readByte a = s.readByte a :=
    by unfold State.display; split <;> rfl

/-! `State.branchIf` -/

@[simp] theorem State.branchIf_regs (c : Bool) (t : Word) : (s.branchIf c t).regs = s.regs :=
    by cases c <;> rfl
@[simp] theorem State.branchIf_pc (c : Bool) (t : Word) :
    (s.branchIf c t).pc = if c then t else s.pc := by cases c <;> rfl
@[simp] theorem State.branchIf_flagZ (c : Bool) (t : Word) : (s.branchIf c t).flagZ = s.flagZ :=
    by cases c <;> rfl
@[simp] theorem State.branchIf_flagN (c : Bool) (t : Word) : (s.branchIf c t).flagN = s.flagN :=
    by cases c <;> rfl
@[simp] theorem State.branchIf_flagC (c : Bool) (t : Word) : (s.branchIf c t).flagC = s.flagC :=
    by cases c <;> rfl
@[simp] theorem State.branchIf_halted (c : Bool) (t : Word) : (s.branchIf c t).halted = s.halted :=
    by cases c <;> rfl
@[simp] theorem State.branchIf_mem (c : Bool) (t : Word) : (s.branchIf c t).mem = s.mem :=
    by cases c <;> rfl
@[simp] theorem State.branchIf_stdin (c : Bool) (t : Word) : (s.branchIf c t).stdin = s.stdin :=
    by cases c <;> rfl
@[simp] theorem State.branchIf_stdinPos (c : Bool) (t : Word) :
    (s.branchIf c t).stdinPos = s.stdinPos := by cases c <;> rfl
@[simp] theorem State.branchIf_stdout (c : Bool) (t : Word) : (s.branchIf c t).stdout = s.stdout :=
    by cases c <;> rfl
@[simp] theorem State.branchIf_config (c : Bool) (t : Word) : (s.branchIf c t).config = s.config :=
    by cases c <;> rfl
@[simp] theorem State.branchIf_draws (c : Bool) (t : Word) : (s.branchIf c t).draws = s.draws :=
    by cases c <;> rfl
@[simp] theorem State.branchIf_reg (c : Bool) (t : Word) (r : Reg) : (s.branchIf c t).reg r = s.reg r :=
    by cases c <;> rfl
@[simp] theorem State.branchIf_readByte (c : Bool) (t : Word) (a : Word) :
    (s.branchIf c t).readByte a = s.readByte a := by cases c <;> rfl

/-! The carry: a given bit, or a free one. -/

@[simp] theorem State.setCarry_some_flagC (c : Bool) : (s.setCarry (some c)).flagC = c := rfl
@[simp] theorem State.setCarry_some_draws (c : Bool) : (s.setCarry (some c)).draws = s.draws := rfl
@[simp] theorem State.setCarry_none_flagC :
    (s.setCarry none).flagC = Config.freeBit s.draws := rfl
@[simp] theorem State.setCarry_none_draws : (s.setCarry none).draws = s.draws + 1 := rfl
@[simp] theorem State.setFlags_flagC (x : AluResult) :
    (s.setFlags x).flagC = x.carry.getD (Config.freeBit s.draws) := by
  cases x with | mk v c => cases c <;> rfl
@[simp] theorem State.setResult_flagC (r : Reg) (x : AluResult) :
    (s.setResult r x).flagC = x.carry.getD (Config.freeBit s.draws) := by
  cases x with | mk v c => cases c <;> rfl

/-! Registers read after a write. -/

/-- A register reads what was last written to it, and a write to another leaves it alone (R20). -/
theorem State.reg_setReg (r q : Reg) (v : Word) :
    (s.setReg r v).reg q = if q = r then v else s.reg q := by
  unfold State.setReg State.reg
  rw [Vector.getElem_set]
  simp [BitVec.toNat_inj, eq_comm]

@[simp] theorem State.reg_setReg_same (r : Reg) (v : Word) : (s.setReg r v).reg r = v := by
  simp [State.reg_setReg]

@[simp] theorem State.reg_setReg_other (r q : Reg) (v : Word) (h : q ≠ r) :
    (s.setReg r v).reg q = s.reg q := by
  simp [State.reg_setReg, h]

/-- A result's register reads the result's value. -/
@[simp] theorem State.reg_setResult (r q : Reg) (x : AluResult) :
    (s.setResult r x).reg q = if q = r then x.value else s.reg q := by
  rw [← State.reg_setReg]
  cases x with | mk v c => cases c <;> rfl

@[simp] theorem State.reg_setRegFree (r q : Reg) :
    (s.setRegFree r).reg q = if q = r then Config.freeWord s.draws else s.reg q :=
  State.reg_setReg s r q _

/-- After a push SP is 2 lower and every other register is as before (R62). -/
theorem State.reg_push (q : Reg) (v : Word) :
    (s.push v).reg q = if q = SP then s.reg SP - 2 else s.reg q :=
  State.reg_setReg (s.writeWord s.pushTarget v) SP q _

/-- After a pop SP is 2 higher and every other register is as before (R63). -/
theorem State.reg_popped (q : Reg) :
    s.popped.reg q = if q = SP then s.reg SP + 2 else s.reg q :=
  State.reg_setReg s SP q _

@[simp] theorem State.push_readByte (v a : Word) :
    (s.push v).readByte a = (s.writeWord s.pushTarget v).readByte a := rfl

/-! `State.start` and `ResetState.defaults` -/

section Start

variable (config : Config) (init : ResetState) (image : Memory) (input : List Byte)

@[simp] theorem State.start_regs : (State.start config init image input).regs = init.regs := rfl
@[simp] theorem State.start_pc : (State.start config init image input).pc = init.pc := rfl
@[simp] theorem State.start_flagZ : (State.start config init image input).flagZ = init.flagZ := rfl
@[simp] theorem State.start_flagN : (State.start config init image input).flagN = init.flagN := rfl
@[simp] theorem State.start_flagC : (State.start config init image input).flagC = init.flagC := rfl
@[simp] theorem State.start_halted : (State.start config init image input).halted = init.halted := rfl
@[simp] theorem State.start_mem : (State.start config init image input).mem = image := rfl
@[simp] theorem State.start_stdin : (State.start config init image input).stdin = input := rfl
@[simp] theorem State.start_stdinPos : (State.start config init image input).stdinPos = 0 := rfl
@[simp] theorem State.start_stdout : (State.start config init image input).stdout = [] := rfl
@[simp] theorem State.start_config : (State.start config init image input).config = config := rfl

/-- A start state's registers are those of `RESET_STATE`. -/
@[simp] theorem State.reg_start (r : Reg) :
    (State.start config init image input).reg r = init.regs[r.toNat]'r.isLt := rfl

end Start

end Sys2Proof.Machine

namespace Sys2Proof

@[simp] theorem ResetState.defaults_pc (regs : Vector Word 16) :
    (ResetState.defaults regs).pc = 0#16 := rfl
@[simp] theorem ResetState.defaults_flagZ (regs : Vector Word 16) :
    (ResetState.defaults regs).flagZ = false := rfl
@[simp] theorem ResetState.defaults_flagN (regs : Vector Word 16) :
    (ResetState.defaults regs).flagN = false := rfl
@[simp] theorem ResetState.defaults_flagC (regs : Vector Word 16) :
    (ResetState.defaults regs).flagC = false := rfl
@[simp] theorem ResetState.defaults_halted (regs : Vector Word 16) :
    (ResetState.defaults regs).halted = false := rfl

/-- The default `RESET_STATE` has SP at 0xFFFF (D7). -/
@[simp] theorem ResetState.defaults_sp (regs : Vector Word 16) :
    (ResetState.defaults regs).regs[15] = 0xFFFF#16 := by
  simp [ResetState.defaults]

/-- The default `RESET_STATE` has SP at 0xFFFF and the other registers as given (D7). -/
theorem ResetState.defaults_reg (regs : Vector Word 16) (r : Reg) :
    (ResetState.defaults regs).regs[r.toNat]'r.isLt =
      if r = SP then 0xFFFF#16 else regs[r.toNat]'r.isLt := by
  have hr : r = SP ↔ 15 = r.toNat := by
    rw [← BitVec.toNat_inj]
    exact eq_comm
  simp only [ResetState.defaults, Vector.getElem_set, hr]

end Sys2Proof
end

