-- ==== Sys2Proof/Laws/Memory.lean ====
section
/-! SUPPORT. Memory: a read after a write, and the canonical form every operation keeps. -/

namespace Sys2Proof.Machine

/-! Lists of cells. -/

theorem Memory.read_erase (m : Memory) (a c : Nat) :
    Memory.read (Memory.erase m a) c = if c = a then Memory.unlisted else Memory.read m c := by
  induction m with
  | nil => simp [Memory.erase, Memory.read]
  | cons x m ih =>
    obtain ⟨k, b⟩ := x
    simp only [Memory.erase, Memory.read]
    split
    · rw [ih]; split
      · rfl
      · rw [if_neg (by omega)]
    · simp only [Memory.read, ih]
      split
      · rw [if_neg (by omega)]
      · rfl

theorem Memory.read_insert (m : Memory) (a c : Nat) (b : Byte) (h : Memory.read m a = Memory.unlisted)
    (hm : ∀ x ∈ m, x.1 ≠ a) :
    Memory.read (Memory.insert m a b) c = if c = a then b else Memory.read m c := by
  induction m with
  | nil => simp [Memory.insert, Memory.read, eq_comm]
  | cons x m ih =>
    obtain ⟨k, d⟩ := x
    have hk : k ≠ a := hm (k, d) (by simp)
    have ih := ih (by simpa [Memory.read, hk] using h) (fun x hx => hm x (by simp [hx]))
    simp only [Memory.insert]
    split
    · simp [Memory.read, eq_comm]
    · simp only [Memory.read, ih]
      split
      · rw [if_neg (by omega)]
      · rfl

theorem Memory.not_mem_erase (m : Memory) (a : Nat) : ∀ x ∈ Memory.erase m a, x.1 ≠ a := by
  induction m with
  | nil => simp [Memory.erase]
  | cons y m ih =>
    simp only [Memory.erase]
    split
    · exact ih
    · intro x hx
      rcases List.mem_cons.1 hx with rfl | hx
      · assumption
      · exact ih x hx

/-- A byte reads what was last written to its address; every other address reads as before (R55). -/
theorem Memory.read_write (m : Memory) (a c : Nat) (b : Byte) :
    Memory.read (Memory.write m a b) c = if c = a then b else Memory.read m c := by
  unfold Memory.write
  split
  · rename_i h; rw [Memory.read_erase, h]
  · rw [Memory.read_insert _ _ _ _ (by rw [Memory.read_erase, if_pos rfl]) (Memory.not_mem_erase m a),
      Memory.read_erase]
    split <;> simp_all

/-! The canonical form. -/

theorem Memory.wfFrom_mono {lo lo' : Nat} (h : lo' ≤ lo) {m : Memory}
    (hm : Memory.wfFrom lo m = true) : Memory.wfFrom lo' m = true := by
  cases m with
  | nil => rfl
  | cons x m =>
    simp only [Memory.wfFrom, Bool.and_eq_true, decide_eq_true_eq] at hm ⊢
    exact ⟨⟨⟨by omega, hm.1.1.2⟩, hm.1.2⟩, hm.2⟩

theorem Memory.wfFrom_erase {lo : Nat} (a : Nat) {m : Memory} (hm : Memory.wfFrom lo m = true) :
    Memory.wfFrom lo (Memory.erase m a) = true := by
  induction m generalizing lo with
  | nil => rfl
  | cons x m ih =>
    simp only [Memory.wfFrom, Bool.and_eq_true, decide_eq_true_eq] at hm
    simp only [Memory.erase]
    split
    · exact ih (Memory.wfFrom_mono (by omega) hm.2)
    · simp only [Memory.wfFrom, Bool.and_eq_true, decide_eq_true_eq]
      exact ⟨hm.1, ih hm.2⟩

theorem Memory.wfFrom_insert {lo a : Nat} {b : Byte} {m : Memory} (hlo : lo ≤ a) (ha : a < 65536)
    (hb : b ≠ Memory.unlisted) (hm : Memory.wfFrom lo m = true) (hx : ∀ x ∈ m, x.1 ≠ a) :
    Memory.wfFrom lo (Memory.insert m a b) = true := by
  induction m generalizing lo with
  | nil => simp [Memory.insert, Memory.wfFrom, hlo, ha, hb]
  | cons x m ih =>
    have hk : x.1 ≠ a := hx x (by simp)
    simp only [Memory.wfFrom, Bool.and_eq_true, decide_eq_true_eq] at hm
    simp only [Memory.insert]
    split
    · simp only [Memory.wfFrom, Bool.and_eq_true, decide_eq_true_eq]
      exact ⟨⟨⟨hlo, ha⟩, hb⟩, ⟨⟨⟨by omega, hm.1.1.2⟩, hm.1.2⟩, hm.2⟩⟩
    · simp only [Memory.wfFrom, Bool.and_eq_true, decide_eq_true_eq]
      exact ⟨hm.1, ih (by omega) hm.2 (fun y hy => hx y (by simp [hy]))⟩

/-- A write keeps the canonical form. -/
theorem Memory.wf_write {m : Memory} {a : Nat} (b : Byte) (ha : a < 65536)
    (hm : Memory.wf m = true) : Memory.wf (Memory.write m a b) = true := by
  unfold Memory.write Memory.wf
  split
  · exact Memory.wfFrom_erase a hm
  · rename_i hb
    exact Memory.wfFrom_insert (Nat.zero_le _) ha hb (Memory.wfFrom_erase a hm)
      (Memory.not_mem_erase m a)

/-! The same for a machine. -/

variable (s : State)

/-- What a byte reads after a byte was stored (R55). -/
theorem State.readByte_writeByte (a c : Word) (b : Byte) :
    (s.writeByte a b).readByte c = if c = a then b else s.readByte c := by
  unfold State.readByte State.writeByte
  simp [Memory.read_write, BitVec.toNat_inj]

theorem Word.add_one_ne (a : Word) : a + 1 ≠ a := by
  intro h
  have := congrArg BitVec.toNat h
  simp [BitVec.toNat_add] at this
  omega

/-- What a byte reads after a word was stored (R56). -/
theorem State.readByte_writeWord (a v c : Word) :
    (s.writeWord a v).readByte c =
      if c = a then lowByte v else if c = a + 1 then highByte v else s.readByte c := by
  unfold State.writeWord
  simp only [State.readByte_writeByte]
  by_cases h : c = a
  · subst h
    simp
  · simp [h]

/-- A word reads the bytes at an address and the next (R54). -/
theorem State.readWord_eq (a : Word) :
    s.readWord a = joinBytes (s.readByte a) (s.readByte (a + 1)) := rfl

theorem State.wf_writeByte (a : Word) (b : Byte) (h : Memory.wf s.mem = true) :
    Memory.wf (s.writeByte a b).mem = true :=
  Memory.wf_write b a.isLt h

theorem State.wf_writeWord (a v : Word) (h : Memory.wf s.mem = true) :
    Memory.wf (s.writeWord a v).mem = true :=
  State.wf_writeByte _ _ _ (State.wf_writeByte s a _ h)

theorem State.wf_push (v : Word) (h : Memory.wf s.mem = true) :
    Memory.wf (s.push v).mem = true :=
  State.wf_writeWord s _ v h

/-- The reset machine's memory is in canonical form. -/
theorem State.reset_mem_wf : Memory.wf State.reset.mem = true := rfl

end Sys2Proof.Machine
end

