-- ==== Sys2Proof/Laws/Ops.lean ====
section
/-! SUPPORT. What each shared operation can answer, said once. -/

namespace Sys2Proof.Machine

variable (s : State)

/-! Faults. -/

@[simp] theorem raise_eq (kind : Word → State → Fault) (n : Nat) :
    raise kind n s = .fault (kind (s.instrAddress n) s) := rfl

/-- `unlessWrap` goes on exactly when addresses wrap or none did. -/
theorem State.unlessWrap_eq_next (n : Nat) (w : Bool) (t u : State) :
    s.unlessWrap n w t = .next u ↔ (s.config.addrWrap = .wrap ∨ w = false) ∧ t = u := by
  unfold State.unlessWrap
  cases s.config.addrWrap <;> cases w <;> simp

/-- `unlessWrap` stops with the one fault it raises, the machine unchanged. -/
theorem State.unlessWrap_eq_fault (n : Nat) (w : Bool) (t : State) (f : Fault) :
    s.unlessWrap n w t = .fault f ↔
      s.config.addrWrap = .fault ∧ w = true ∧ f = .addressWrap (s.instrAddress n) s := by
  unfold State.unlessWrap
  cases s.config.addrWrap <;> cases w <;> simp [eq_comm]

theorem State.unlessWrap_ne_refused (n : Nat) (w : Bool) (t : State) (r : Refusal) :
    s.unlessWrap n w t ≠ .refused r := by
  unfold State.unlessWrap
  cases s.config.addrWrap <;> cases w <;> simp

/-- Where addresses wrap, `unlessWrap` goes on. -/
theorem State.unlessWrap_wrap (n : Nat) (w : Bool) (t : State) (h : s.config.addrWrap = .wrap) :
    s.unlessWrap n w t = .next t := by
  simp [State.unlessWrap, h]

/-- Division goes on exactly when neither fault of R158 is raised, and then writes what `pick` takes. -/
theorem State.divide_eq_next (pick : Word × Word → Word) (r : Reg) (a b : Word) (u : State) :
    s.divide pick r a b = .next u ↔
      b ≠ 0#16 ∧ ¬ (divOverflows s.config.divSigned a b = true ∧ s.config.divOverflow = .fault) ∧
        s.setResult r
          { value := pick (divOp s.config.divSigned a b), carry := carryDiv s.config.carryDiv } = u := by
  unfold State.divide
  split
  · simp [*]
  · split <;> simp [*]

/-- Division stops on divisor 0, and on 0x8000 by 0xFFFF where the configuration says so (R158). -/
theorem State.divide_eq_fault (pick : Word × Word → Word) (r : Reg) (a b : Word) (f : Fault) :
    s.divide pick r a b = .fault f ↔
      (b = 0#16 ∧ f = .divideByZero (s.instrAddress 2) s) ∨
      (b ≠ 0#16 ∧ divOverflows s.config.divSigned a b = true ∧ s.config.divOverflow = .fault ∧
        f = .divideOverflow (s.instrAddress 2) s) := by
  have e : ∀ g : Fault, Host.Outcome.fault g = (.fault f : Host.Outcome State Fault Refusal) ↔ f = g :=
    fun g => ⟨fun h => by cases h; rfl, fun h => by rw [h]⟩
  unfold State.divide
  by_cases h0 : b = 0#16
  · rw [if_pos h0, raise_eq, e]
    simp [h0]
  · rw [if_neg h0]
    by_cases h1 : divOverflows s.config.divSigned a b = true ∧ s.config.divOverflow = .fault
    · rw [if_pos h1, raise_eq, e]
      simp [h0, h1.1, h1.2]
    · rw [if_neg h1]
      constructor
      · intro h; cases h
      · rintro (h | h)
        · exact absurd h.1 h0
        · exact absurd ⟨h.2.1, h.2.2.1⟩ h1

theorem State.divide_ne_refused (pick : Word × Word → Word) (r : Reg) (a b : Word) (x : Refusal) :
    s.divide pick r a b ≠ .refused x := by
  unfold State.divide
  split
  · simp
  · split <;> simp

/-! Streams. -/

/-- `StdinNext()` gives the byte at the read position and moves past it (R37). -/
theorem State.nextInput_eq_some (b : Byte) (t : State) :
    s.nextInput = some (b, t) ↔
      s.stdin[s.stdinPos]? = some b ∧ { s with stdinPos := s.stdinPos + 1 } = t := by
  unfold State.nextInput
  split <;> simp_all

/-- `StdinNext()` gives nothing exactly at the end of the input (R37). -/
theorem State.nextInput_eq_none : s.nextInput = none ↔ s.stdin.length ≤ s.stdinPos := by
  rw [← List.getElem?_eq_none_iff]
  unfold State.nextInput
  split <;> simp_all

/-- A display prints nothing outside debugging mode (R232, R233). -/
@[simp] theorem State.display_off (h : s.config.debugMode = false) : s.display = s := by
  simp [State.display, h]

/-- A display in debugging mode appends a free text (U6). -/
theorem State.display_on (h : s.config.debugMode = true) :
    s.display = { s with stdout := s.stdout ++ Config.freeText s.draws, draws := s.draws + 1 } := by
  simp [State.display, h]

/-- A display appends something, perhaps nothing, to standard output. -/
theorem State.display_stdout : ∃ text, s.display.stdout = s.stdout ++ text := by
  unfold State.display
  split
  · exact ⟨_, rfl⟩
  · exact ⟨[], by simp⟩

/-! Branches. -/

theorem State.branchIf_true (t : Word) : s.branchIf true t = s.setPc t := rfl
theorem State.branchIf_false (t : Word) : s.branchIf false t = s := rfl

/-! Operands. -/

@[simp] theorem zextNibble_toNat (v : Nibble) : (zextNibble v).toNat = v.toNat := by
  have := v.isLt
  simp [zextNibble]; omega

@[simp] theorem zextByte_toNat (b : Byte) : (zextByte b).toNat = b.toNat := by
  have := b.isLt
  simp [zextByte]; omega

/-- Below 16 the two modes of R176 count alike. -/
theorem shiftCount_of_lt (mode : ShiftCountMode) (v : Word) (h : v.toNat < 16) :
    shiftCount mode v = v.toNat := by
  simp [shiftCount, h]

theorem shiftCount_full (v : Word) : shiftCount .full v = v.toNat := by
  simp [shiftCount]

theorem shiftCount_mod16 (v : Word) : shiftCount .mod16 v = v.toNat % 16 := by
  unfold shiftCount
  split
  · omega
  · rfl

/-! One step. -/

@[simp] theorem State.suspended_eq : s.suspended = s.halted := rfl

theorem State.fetched_eq : s.fetched = s.advance s.fetch.length := rfl

/-- Fetching stops a run only where addresses do not wrap. -/
theorem State.fetchFault_eq_none :
    s.fetchFault = none ↔ s.config.addrWrap = .wrap ∨ s.pc.toNat + s.fetch.length < 65536 := by
  unfold State.fetchFault State.fetchWraps
  cases s.config.addrWrap <;> simp

/-- What one step can answer with a next state: a halted machine itself, or what the fetched instruction
makes of the machine whose pc is past it. -/
theorem step_eq_next (t : State) :
    step s = .next t ↔ (s.halted = true ∧ s = t) ∨
      (s.halted = false ∧ s.fetchFault = none ∧ exec s.fetch s.fetched = .next t) := by
  unfold step
  cases h : s.halted <;> cases hf : s.fetchFault <;> simp [h]

/-- What one step can stop with: the fault of fetching, or that of the fetched instruction. -/
theorem step_eq_fault (f : Fault) :
    step s = .fault f ↔ s.halted = false ∧
      (s.fetchFault = some f ∨ (s.fetchFault = none ∧ exec s.fetch s.fetched = .fault f)) := by
  unfold step
  cases h : s.halted <;> cases hf : s.fetchFault <;> simp [h]

/-! Runs. -/

theorem run_step (M : Host.Core) (k : Nat) (u t : M.State) (h : M.step u = .next t) :
    M.run (k + 1) u = M.run k t := by
  simp only [Host.Core.run, h]

theorem run_zero : core.run 0 s = .next s := rfl

/-- A run of k + 1 steps whose first step goes on is a run of k steps from there. -/
theorem run_succ_of_next (k : Nat) (t : State) (h : step s = .next t) :
    core.run (k + 1) s = core.run k t :=
  run_step core k s t h

end Sys2Proof.Machine
end

