-- ==== Sys2Proof/Laws/PerInstr.lean ====
section
/-! SUPPORT. Statements about every instruction, one lemma for each constructor. -/

namespace Sys2Proof.Laws

/-- An instruction's encoding has as many bytes as its format says (R80). -/
def EncodedLength.Statement (i : Instr) : Prop :=
  ∀ fm : FieldMap, (wordBytes (encode fm i)).length = i.length

theorem EncodedLength.halt : EncodedLength.Statement .halt := fun _ => rfl
theorem EncodedLength.b (imm : Word) : EncodedLength.Statement (.b imm) := fun _ => rfl
theorem EncodedLength.beq (imm : Word) : EncodedLength.Statement (.beq imm) := fun _ => rfl
theorem EncodedLength.bne (imm : Word) : EncodedLength.Statement (.bne imm) := fun _ => rfl
theorem EncodedLength.blt (imm : Word) : EncodedLength.Statement (.blt imm) := fun _ => rfl
theorem EncodedLength.ble (imm : Word) : EncodedLength.Statement (.ble imm) := fun _ => rfl
theorem EncodedLength.bge (imm : Word) : EncodedLength.Statement (.bge imm) := fun _ => rfl
theorem EncodedLength.bgt (imm : Word) : EncodedLength.Statement (.bgt imm) := fun _ => rfl
theorem EncodedLength.bltu (imm : Word) : EncodedLength.Statement (.bltu imm) := fun _ => rfl
theorem EncodedLength.bleu (imm : Word) : EncodedLength.Statement (.bleu imm) := fun _ => rfl
theorem EncodedLength.bgeu (imm : Word) : EncodedLength.Statement (.bgeu imm) := fun _ => rfl
theorem EncodedLength.bgtu (imm : Word) : EncodedLength.Statement (.bgtu imm) := fun _ => rfl
theorem EncodedLength.call (imm : Word) : EncodedLength.Statement (.call imm) := fun _ => rfl
theorem EncodedLength.ret : EncodedLength.Statement .ret := fun _ => rfl
theorem EncodedLength.regs : EncodedLength.Statement .regs := fun _ => rfl
theorem EncodedLength.dump : EncodedLength.Statement .dump := fun _ => rfl
theorem EncodedLength.li (r : Reg) (imm : Word) : EncodedLength.Statement (.li r imm) := fun _ => rfl
theorem EncodedLength.lb (r : Reg) (imm : Word) : EncodedLength.Statement (.lb r imm) := fun _ => rfl
theorem EncodedLength.lw (r : Reg) (imm : Word) : EncodedLength.Statement (.lw r imm) := fun _ => rfl
theorem EncodedLength.stb (r : Reg) (imm : Word) : EncodedLength.Statement (.stb r imm) := fun _ => rfl
theorem EncodedLength.stw (r : Reg) (imm : Word) : EncodedLength.Statement (.stw r imm) := fun _ => rfl
theorem EncodedLength.not (r : Reg) : EncodedLength.Statement (.not r) := fun _ => rfl
theorem EncodedLength.neg (r : Reg) : EncodedLength.Statement (.neg r) := fun _ => rfl
theorem EncodedLength.abs (r : Reg) : EncodedLength.Statement (.abs r) := fun _ => rfl
theorem EncodedLength.ext (r : Reg) : EncodedLength.Statement (.ext r) := fun _ => rfl
theorem EncodedLength.push (r : Reg) : EncodedLength.Statement (.push r) := fun _ => rfl
theorem EncodedLength.pop (r : Reg) : EncodedLength.Statement (.pop r) := fun _ => rfl
theorem EncodedLength.inp (r : Reg) : EncodedLength.Statement (.inp r) := fun _ => rfl
theorem EncodedLength.out (r : Reg) : EncodedLength.Statement (.out r) := fun _ => rfl
theorem EncodedLength.jump (r : Reg) : EncodedLength.Statement (.jump r) := fun _ => rfl
theorem EncodedLength.exec (r : Reg) : EncodedLength.Statement (.exec r) := fun _ => rfl
theorem EncodedLength.mov (a b : Reg) : EncodedLength.Statement (.mov a b) := fun _ => rfl
theorem EncodedLength.cmp (a b : Reg) : EncodedLength.Statement (.cmp a b) := fun _ => rfl
theorem EncodedLength.ldq (r : Reg) (v : Nibble) : EncodedLength.Statement (.ldq r v) := fun _ => rfl
theorem EncodedLength.cmpq (r : Reg) (v : Nibble) : EncodedLength.Statement (.cmpq r v) := fun _ => rfl
theorem EncodedLength.addq (r : Reg) (v : Nibble) : EncodedLength.Statement (.addq r v) := fun _ => rfl
theorem EncodedLength.subq (r : Reg) (v : Nibble) : EncodedLength.Statement (.subq r v) := fun _ => rfl
theorem EncodedLength.mulq (r : Reg) (v : Nibble) : EncodedLength.Statement (.mulq r v) := fun _ => rfl
theorem EncodedLength.divq (r : Reg) (v : Nibble) : EncodedLength.Statement (.divq r v) := fun _ => rfl
theorem EncodedLength.modq (r : Reg) (v : Nibble) : EncodedLength.Statement (.modq r v) := fun _ => rfl
theorem EncodedLength.andq (r : Reg) (v : Nibble) : EncodedLength.Statement (.andq r v) := fun _ => rfl
theorem EncodedLength.orq (r : Reg) (v : Nibble) : EncodedLength.Statement (.orq r v) := fun _ => rfl
theorem EncodedLength.xorq (r : Reg) (v : Nibble) : EncodedLength.Statement (.xorq r v) := fun _ => rfl
theorem EncodedLength.salq (r : Reg) (v : Nibble) : EncodedLength.Statement (.salq r v) := fun _ => rfl
theorem EncodedLength.sarq (r : Reg) (v : Nibble) : EncodedLength.Statement (.sarq r v) := fun _ => rfl
theorem EncodedLength.slrq (r : Reg) (v : Nibble) : EncodedLength.Statement (.slrq r v) := fun _ => rfl
theorem EncodedLength.lbx (r x : Reg) (o : Nibble) : EncodedLength.Statement (.lbx r x o) := fun _ => rfl
theorem EncodedLength.lwx (r x : Reg) (o : Nibble) : EncodedLength.Statement (.lwx r x o) := fun _ => rfl
theorem EncodedLength.stbx (r x : Reg) (o : Nibble) : EncodedLength.Statement (.stbx r x o) := fun _ => rfl
theorem EncodedLength.stwx (r x : Reg) (o : Nibble) : EncodedLength.Statement (.stwx r x o) := fun _ => rfl
theorem EncodedLength.add (a b t : Reg) : EncodedLength.Statement (.add a b t) := fun _ => rfl
theorem EncodedLength.sub (a b t : Reg) : EncodedLength.Statement (.sub a b t) := fun _ => rfl
theorem EncodedLength.mul (a b t : Reg) : EncodedLength.Statement (.mul a b t) := fun _ => rfl
theorem EncodedLength.div (a b t : Reg) : EncodedLength.Statement (.div a b t) := fun _ => rfl
theorem EncodedLength.mod (a b t : Reg) : EncodedLength.Statement (.mod a b t) := fun _ => rfl
theorem EncodedLength.and (a b t : Reg) : EncodedLength.Statement (.and a b t) := fun _ => rfl
theorem EncodedLength.or (a b t : Reg) : EncodedLength.Statement (.or a b t) := fun _ => rfl
theorem EncodedLength.xor (a b t : Reg) : EncodedLength.Statement (.xor a b t) := fun _ => rfl
theorem EncodedLength.sal (a b t : Reg) : EncodedLength.Statement (.sal a b t) := fun _ => rfl
theorem EncodedLength.sar (a b t : Reg) : EncodedLength.Statement (.sar a b t) := fun _ => rfl
theorem EncodedLength.slr (a b t : Reg) : EncodedLength.Statement (.slr a b t) := fun _ => rfl

end Sys2Proof.Laws
end

