-- ==== Sys2Proof/Tests/Slice0.lean ====
section
/-! SUPPORT. Tests: the check of well-formedness, decoding on words written out from the spec's encodings,
one step on small states with the results of spec/95_test_vectors.md, and for each statement with
hypotheses a state that meets them. -/

namespace Sys2Proof.Tests

open Sys2Proof.Machine

/-! Well-formedness (U9, U10). -/

theorem test_wellFormed_refuses_pop_sp : (Instr.pop 15).wellFormed = false := by decide
theorem test_wellFormed_refuses_exec_sp : (Instr.exec 15).wellFormed = false := by decide
theorem test_wellFormed_accepts_pop : (Instr.pop 14).wellFormed = true := by decide
theorem test_wellFormed_accepts_exec : (Instr.exec 0).wellFormed = true := by decide
theorem test_wellFormed_accepts_sp_elsewhere : (Instr.push 15).wellFormed = true := by decide

/-! Decoding: each word is the row's encoding (R88, R90) with its fields filled in by hand. -/

/-- Format OP: no operand. -/
theorem test_decode_op :
    decodeTableWord 16 0b0000_0000_0000_0000 = some .halt ∧
    decodeTableWord 16 0b0000_0000_0000_1101 = some .ret ∧
    decodeTableWord 16 0b0000_0000_0000_1110 = some .regs ∧
    decodeTableWord 16 0b0000_0000_0000_1111 = some .dump := by
  decide

/-- Format X: a second word (imm 0x8BCD). -/
theorem test_decode_x :
    decodeTableWord 32 0b1000_1011_1100_1101_0000_0000_0000_0001 = some (.b 0x8bcd) ∧
    decodeTableWord 32 0b1000_1011_1100_1101_0000_0000_0000_0010 = some (.beq 0x8bcd) ∧
    decodeTableWord 32 0b1000_1011_1100_1101_0000_0000_0000_0011 = some (.bne 0x8bcd) ∧
    decodeTableWord 32 0b1000_1011_1100_1101_0000_0000_0000_0100 = some (.blt 0x8bcd) ∧
    decodeTableWord 32 0b1000_1011_1100_1101_0000_0000_0000_0101 = some (.ble 0x8bcd) ∧
    decodeTableWord 32 0b1000_1011_1100_1101_0000_0000_0000_0110 = some (.bge 0x8bcd) ∧
    decodeTableWord 32 0b1000_1011_1100_1101_0000_0000_0000_0111 = some (.bgt 0x8bcd) ∧
    decodeTableWord 32 0b1000_1011_1100_1101_0000_0000_0000_1000 = some (.bltu 0x8bcd) ∧
    decodeTableWord 32 0b1000_1011_1100_1101_0000_0000_0000_1001 = some (.bleu 0x8bcd) ∧
    decodeTableWord 32 0b1000_1011_1100_1101_0000_0000_0000_1010 = some (.bgeu 0x8bcd) ∧
    decodeTableWord 32 0b1000_1011_1100_1101_0000_0000_0000_1011 = some (.bgtu 0x8bcd) ∧
    decodeTableWord 32 0b1000_1011_1100_1101_0000_0000_0000_1100 = some (.call 0x8bcd) := by
  decide

/-- Format RX: a register and a second word. -/
theorem test_decode_rx :
    decodeTableWord 32 0b1000_1011_1100_1101_0000_0000_0001_1010 = some (.li 10 0x8bcd) ∧
    decodeTableWord 32 0b1000_1011_1100_1101_0000_0000_0010_1010 = some (.lb 10 0x8bcd) ∧
    decodeTableWord 32 0b1000_1011_1100_1101_0000_0000_0011_1010 = some (.lw 10 0x8bcd) ∧
    decodeTableWord 32 0b1000_1011_1100_1101_0000_0000_0100_1010 = some (.stb 10 0x8bcd) ∧
    decodeTableWord 32 0b1000_1011_1100_1101_0000_0000_0101_1010 = some (.stw 10 0x8bcd) := by
  decide

/-- Format R: one register. -/
theorem test_decode_r :
    decodeTableWord 16 0b0000_0000_0110_1010 = some (.not 10) ∧
    decodeTableWord 16 0b0000_0000_0111_1010 = some (.neg 10) ∧
    decodeTableWord 16 0b0000_0000_1000_1010 = some (.abs 10) ∧
    decodeTableWord 16 0b0000_0000_1001_1010 = some (.ext 10) ∧
    decodeTableWord 16 0b0000_0000_1010_1010 = some (.push 10) ∧
    decodeTableWord 16 0b0000_0000_1011_1010 = some (.pop 10) ∧
    decodeTableWord 16 0b0000_0000_1100_1010 = some (.inp 10) ∧
    decodeTableWord 16 0b0000_0000_1101_1010 = some (.out 10) ∧
    decodeTableWord 16 0b0000_0000_1110_1010 = some (.jump 10) ∧
    decodeTableWord 16 0b0000_0000_1111_1010 = some (.exec 10) := by
  decide

/-- Format RR: two registers. -/
theorem test_decode_rr :
    decodeTableWord 16 0b0000_0001_1100_0011 = some (.mov 3 12) ∧
    decodeTableWord 16 0b0000_0010_0010_0001 = some (.cmp 1 2) := by
  decide

/-- Format IR: a register and a constant. -/
theorem test_decode_ir :
    decodeTableWord 16 0b0000_0011_1001_1010 = some (.ldq 10 9) ∧
    decodeTableWord 16 0b0000_0100_1001_1010 = some (.cmpq 10 9) ∧
    decodeTableWord 16 0b0000_0101_1001_1010 = some (.addq 10 9) ∧
    decodeTableWord 16 0b0000_0110_1001_1010 = some (.subq 10 9) ∧
    decodeTableWord 16 0b0000_0111_1001_1010 = some (.mulq 10 9) ∧
    decodeTableWord 16 0b0000_1000_1001_1010 = some (.divq 10 9) ∧
    decodeTableWord 16 0b0000_1001_1001_1010 = some (.modq 10 9) ∧
    decodeTableWord 16 0b0000_1010_1001_1010 = some (.andq 10 9) ∧
    decodeTableWord 16 0b0000_1011_1001_1010 = some (.orq 10 9) ∧
    decodeTableWord 16 0b0000_1100_1001_1010 = some (.xorq 10 9) ∧
    decodeTableWord 16 0b0000_1101_1001_1010 = some (.salq 10 9) ∧
    decodeTableWord 16 0b0000_1110_1001_1010 = some (.sarq 10 9) ∧
    decodeTableWord 16 0b0000_1111_1001_1010 = some (.slrq 10 9) := by
  decide

/-- Format IRR: two registers and an offset. -/
theorem test_decode_irr :
    decodeTableWord 16 0b0001_0101_0110_1010 = some (.lbx 10 6 5) ∧
    decodeTableWord 16 0b0010_0101_0110_1010 = some (.lwx 10 6 5) ∧
    decodeTableWord 16 0b0011_0101_0110_1010 = some (.stbx 10 6 5) ∧
    decodeTableWord 16 0b0100_0101_0110_1010 = some (.stwx 10 6 5) := by
  decide

/-- Format RRR: three registers. -/
theorem test_decode_rrr :
    decodeTableWord 16 0b0101_1100_0010_0001 = some (.add 1 2 12) ∧
    decodeTableWord 16 0b0110_1100_0010_0001 = some (.sub 1 2 12) ∧
    decodeTableWord 16 0b0111_1100_0010_0001 = some (.mul 1 2 12) ∧
    decodeTableWord 16 0b1000_1100_0010_0001 = some (.div 1 2 12) ∧
    decodeTableWord 16 0b1001_1100_0010_0001 = some (.mod 1 2 12) ∧
    decodeTableWord 16 0b1010_1100_0010_0001 = some (.and 1 2 12) ∧
    decodeTableWord 16 0b1011_1100_0010_0001 = some (.or 1 2 12) ∧
    decodeTableWord 16 0b1100_1100_0010_0001 = some (.xor 1 2 12) ∧
    decodeTableWord 16 0b1101_1100_0010_0001 = some (.sal 1 2 12) ∧
    decodeTableWord 16 0b1110_1100_0010_0001 = some (.sar 1 2 12) ∧
    decodeTableWord 16 0b1111_1100_0010_0001 = some (.slr 1 2 12) := by
  decide


/-- The word of the first operand field alone tells POP R15 from POP R14. -/
theorem test_decode_pop_sp : decodeTableWord 16 0b0000_0000_1011_1111 = some (.pop 15) := by
  decide

/-- Under another `FIELD_MAP` the same word names other operands (R87). -/
theorem test_decode_swapped :
    decodeWords ⟨.swapped, .ops321, .ops132⟩ 0x0221 0 = .cmp 2 1 ∧
    decodeWords ⟨.swapped, .ops321, .ops132⟩ 0x5321 0 = .add 3 2 1 ∧
    decodeWords ⟨.swapped, .ops321, .ops132⟩ 0x22F3 0 = .lwx 3 2 15 := by
  decide

/-- Fewer bytes than the instruction has are rejected, and a little-endian pair is read low byte first. -/
theorem test_decode_bytes :
    (decode FieldMap.default [0x11, 0x00, 0x34]).isOk = false ∧
    (decode FieldMap.default [0x21]).isOk = false ∧
    decode FieldMap.default [0x21, 0x53] = .ok (.add 1 2 3, []) ∧
    decode FieldMap.default [0x11, 0x00, 0x34, 0x12] = .ok (.li 1 0x1234, []) := by
  decide

/-! One step. Expected values: spec/95_test_vectors.md sections 3 to 8. -/

/-- The machine of R42 under the defaults of R6 with `SHIFT_COUNT_MODE` full. -/
def start : State := State.start (Config.defaults .full) (ResetState.defaults (Vector.replicate 16 0#16)) [] []

/-- R1 = a, R2 = b, every flag set. -/
def probe (a b : Word) : State :=
  { (start.setReg 1 a).setReg 2 b with flagZ := true, flagN := true, flagC := true }

/-- The next state of one step, if there is one. -/
def stepped (s : State) : Option State :=
  match step s with
  | .next t => some t
  | _ => none

/-- The state after one step that runs the instruction of a word, if there is one. -/
def after (nbits w : Nat) (s : State) : Option State := stepped (s.withFetchWord nbits w)

/-- The fault one step stops with, if it does. -/
def stopped (s : State) : Option Fault :=
  match step s with
  | .fault f => some f
  | _ => none

/-- A register and the flags Z, N, C. -/
def alu (r : Reg) (t : State) : Word × Bool × Bool × Bool := (t.reg r, t.flagZ, t.flagN, t.flagC)

/-- A register and pc. -/
def moved (r : Reg) (t : State) : Word × Word := (t.reg r, t.pc)

theorem test_neg :
    (after 16 0x0071 (probe 0x0001 0)).map (alu 1) = some (0xFFFF, false, true, true) ∧
    (after 16 0x0071 (probe 0x0000 0)).map (alu 1) = some (0x0000, true, false, false) := by
  decide

theorem test_abs :
    (after 16 0x0081 (probe 0xFFFB 0)).map (alu 1) = some (0x0005, false, false, false) ∧
    (after 16 0x0081 (probe 0x8000 0)).map (alu 1) = some (0x8000, false, true, false) := by
  decide

theorem test_ext :
    (after 16 0x0091 (probe 0x00FE 0)).map (alu 1) = some (0xFFFE, false, true, false) ∧
    (after 16 0x0091 (probe 0x127F 0)).map (alu 1) = some (0x007F, false, false, false) := by
  decide

theorem test_not :
    (after 16 0x0061 (probe 0x00FF 0)).map (alu 1) = some (0xFF00, false, true, false) ∧
    (after 16 0x0061 (probe 0xFFFF 0)).map (alu 1) = some (0x0000, true, false, false) := by
  decide

theorem test_cmp :
    (after 16 0x0221 (probe 0x0001 0xFFFF)).map (alu 1) = some (0x0001, false, false, true) ∧
    (after 16 0x0221 (probe 0x7FFF 0x8000)).map (alu 1) = some (0x7FFF, false, true, true) := by
  decide

theorem test_cmpq :
    (after 16 0x04A1 (probe 0x000A 0)).map (alu 1) = some (0x000A, true, false, false) ∧
    (after 16 0x04A1 (probe 0x0009 0)).map (alu 1) = some (0x0009, false, true, true) := by
  decide

theorem test_add :
    (after 16 0x5321 (probe 0xFFFF 0x0001)).map (alu 3) = some (0x0000, true, false, true) ∧
    (after 16 0x5321 (probe 0x7FFF 0x0001)).map (alu 3) = some (0x8000, false, true, false) := by
  decide

theorem test_sub :
    (after 16 0x6321 (probe 0x0003 0x0005)).map (alu 3) = some (0xFFFE, false, true, true) ∧
    (after 16 0x6321 (probe 0x8000 0x0001)).map (alu 3) = some (0x7FFF, false, false, false) := by
  decide

theorem test_mul :
    (after 16 0x7321 (probe 0xFFFF 0xFFFF)).map (alu 3) = some (0x0001, false, false, true) ∧
    (after 16 0x7321 (probe 0x4000 0x0002)).map (alu 3) = some (0x8000, false, true, false) := by
  decide

theorem test_div :
    (after 16 0x8321 (probe 0xFFF9 0x0002)).map (alu 3) = some (0xFFFD, false, true, false) ∧
    (after 16 0x8321 (probe 0x8000 0xFFFF)).map (alu 3) = some (0x8000, false, true, false) := by
  decide

theorem test_mod :
    (after 16 0x9321 (probe 0xFFF9 0x0002)).map (alu 3) = some (0xFFFF, false, true, false) ∧
    (after 16 0x9321 (probe 0x0007 0xFFFE)).map (alu 3) = some (0x0001, false, false, false) := by
  decide

theorem test_addq :
    (after 16 0x05F1 (probe 0xFFF1 0)).map (alu 1) = some (0x0000, true, false, true) := by
  decide

theorem test_subq :
    (after 16 0x0611 (probe 0x0000 0)).map (alu 1) = some (0xFFFF, false, true, true) ∧
    (after 16 0x0611 (probe 0x8000 0)).map (alu 1) = some (0x7FFF, false, false, false) := by
  decide

theorem test_mulq :
    (after 16 0x0781 (probe 0x2000 0)).map (alu 1) = some (0x0000, true, false, true) := by
  decide

theorem test_divq :
    (after 16 0x08F1 (probe 0x8000 0)).map (alu 1) = some (0xF778, false, true, false) := by
  decide

theorem test_modq :
    (after 16 0x09F1 (probe 0x8000 0)).map (alu 1) = some (0xFFF8, false, true, false) := by
  decide

theorem test_and :
    (after 16 0xA321 (probe 0x0FF0 0x00FF)).map (alu 3) = some (0x00F0, false, false, false) := by
  decide

theorem test_or :
    (after 16 0xB321 (probe 0x0F00 0x00F0)).map (alu 3) = some (0x0FF0, false, false, false) := by
  decide

theorem test_xor :
    (after 16 0xC321 (probe 0x7FFF 0xFFFF)).map (alu 3) = some (0x8000, false, true, false) := by
  decide

theorem test_andq :
    (after 16 0x0A51 (probe 0x1237 0)).map (alu 1) = some (0x0005, false, false, false) := by
  decide

theorem test_orq :
    (after 16 0x0B31 (probe 0x8000 0)).map (alu 1) = some (0x8003, false, true, false) := by
  decide

theorem test_xorq :
    (after 16 0x0CF1 (probe 0xFFFF 0)).map (alu 1) = some (0xFFF0, false, true, false) := by
  decide

theorem test_sal :
    (after 16 0xD321 (probe 0x8001 0x0001)).map (alu 3) = some (0x0002, false, false, true) ∧
    (after 16 0xD321 (probe 0x0001 0x0010)).map (alu 3) = some (0x0000, true, false, true) := by
  decide

theorem test_sar :
    (after 16 0xE321 (probe 0x8000 0x0010)).map (alu 3) = some (0xFFFF, false, true, false) ∧
    (after 16 0xE321 (probe 0x7F00 0x0004)).map (alu 3) = some (0x07F0, false, false, false) := by
  decide

theorem test_slr :
    (after 16 0xF321 (probe 0x8000 0x000F)).map (alu 3) = some (0x0001, false, false, false) ∧
    (after 16 0xF321 (probe 0x8000 0x0010)).map (alu 3) = some (0x0000, true, false, false) := by
  decide

theorem test_salq :
    (after 16 0x0DF1 (probe 0x0003 0)).map (alu 1) = some (0x8000, false, true, true) := by
  decide

theorem test_sarq :
    (after 16 0x0E11 (probe 0xFFF9 0)).map (alu 1) = some (0xFFFC, false, true, false) := by
  decide

theorem test_slrq :
    (after 16 0x0F01 (probe 0x8000 0)).map (alu 1) = some (0x8000, false, true, false) := by
  decide

theorem test_ldq :
    (after 16 0x0302 (probe 0x0000 0xFFFF)).map (alu 2) = some (0x0000, true, true, true) := by
  decide

/-- Division by 0: a fault at the instruction's address, pc past it, every flag kept. -/
theorem test_div_by_zero :
    stopped ((probe 5 0).withFetchWord 16 0x8321) =
      some (.divideByZero 0 (((probe 5 0).withFetchWord 16 0x8321).setPc 2)) := by
  decide

theorem test_li :
    (after 32 0x8000001F start).map (moved 15) = some (0x8000, 4) := by
  decide

theorem test_lb :
    (after 32 0xFFFF0022 ((probe 0 0xAAAA).writeByte 0xFFFF 0x80)).map (alu 2) =
      some (0x0080, true, true, true) := by
  decide

/-- An odd address, and the wrap to address 0, where the instruction itself lies. -/
theorem test_lw :
    (after 32 0x02010033 (start.writeWord 0x0201 0xABCD)).map (State.reg · 3) = some 0xABCD ∧
    (after 32 0xFFFF0033 (start.writeByte 0xFFFF 0x34)).map (State.reg · 3) = some 0x3334 := by
  decide

theorem test_stb :
    (after 32 0x03000042 ((probe 0 0xABCD).writeByte 0x0301 0x55)).map (State.readWord · 0x0300) =
      some 0x55CD := by
  decide

theorem test_stw :
    (after 32 0xFFFF0052 ((probe 0 0xABCD).setPc 0x10)).map
      (fun t => (t.readByte 0xFFFF, t.readByte 0, t.pc)) = some (0xCD, 0xAB, 0x14) := by
  decide

theorem test_lbx :
    (after 16 0x1F51 ((start.setReg 5 0xFFF8).writeByte 7 0x99)).map (State.reg · 1) = some 0x0099 := by
  decide

/-- The address is computed from the old R2. -/
theorem test_lwx :
    (after 16 0x2022 ((probe 0 0x0200).writeWord 0x0200 0x5678)).map (State.reg · 2) = some 0x5678 := by
  decide

theorem test_stbx :
    (after 16 0x3055 (start.setReg 5 0x0341)).map (State.readByte · 0x0341) = some 0x41 := by
  decide

theorem test_stwx :
    (after 16 0x4F51 (((start.setReg 1 0xBEEF).setReg 5 0xFFF0).setPc 0x10)).map
      (fun t => (t.readByte 0xFFFF, t.readByte 0)) = some (0xEF, 0xBE) := by
  decide

theorem test_push :
    (after 16 0x00A7 (start.setReg 7 0x1234)).map (fun t => (t.readWord 0xFFFD, t.reg 15)) =
      some (0x1234, 0xFFFD) := by
  decide

/-- PUSH R15 stores the old SP. -/
theorem test_push_sp :
    (after 16 0x00AF (start.setReg 15 0x8000)).map (fun t => (t.readWord 0x7FFE, t.reg 15)) =
      some (0x8000, 0x7FFE) := by
  decide

theorem test_pop :
    (after 16 0x00B2 ((start.setReg 15 0xFFFD).writeWord 0xFFFD 0x1234)).map
      (fun t => (t.reg 2, t.reg 15)) = some (0x1234, 0xFFFF) := by
  decide

theorem test_push_emptyDescending :
    (after 16 0x00A7
      { start.setReg 7 0x1234 with config := { start.config with stackConvention := .emptyDescending } }).map
      (fun t => (t.readWord 0xFFFE, t.reg 15)) = some (0x1234, 0xFFFD) := by
  decide

theorem test_in :
    (after 16 0x00C1 { probe 0x1234 0 with stdin := [0xFF, 0x00] }).map (fun t => (alu 1 t, t.stdinPos)) =
      some ((0x00FF, true, true, true), 1) := by
  decide

theorem test_in_at_end :
    stopped (((probe 0x1234 0).setPc 0x30).withFetchWord 16 0x00C1) =
      some (.inputExhausted 0x30 ((((probe 0x1234 0).setPc 0x30).withFetchWord 16 0x00C1).setPc 0x32)) := by
  decide

theorem test_out :
    (after 16 0x00D1 (probe 0x0148 0)).map (fun t => (t.stdout, t.reg 1)) = some ([0x48], 0x0148) := by
  decide

theorem test_mov :
    (after 16 0x0121 (probe 0x1234 0)).map (alu 2) = some (0x1234, true, true, true) := by
  decide

/-- pc after a branch at 0x0010 to 0x0040 with the given flags. -/
def branched (code : Nat) (z n c : Bool) : Option Word :=
  (after 32 (0x400000 + code) { start.setPc 0x10 with flagZ := z, flagN := n, flagC := c }).map State.pc

theorem test_b :
    branched 1 false false false = some 0x40 := by
  decide

theorem test_beq :
    branched 2 true false false = some 0x40 ∧ branched 2 false false false = some 0x14 := by
  decide

theorem test_bne :
    branched 3 false false false = some 0x40 ∧ branched 3 true false false = some 0x14 := by
  decide

theorem test_blt :
    branched 4 false true true = some 0x40 ∧ branched 4 false false false = some 0x14 := by
  decide

theorem test_ble :
    branched 5 false true true = some 0x40 ∧ branched 5 false false false = some 0x14 := by
  decide

theorem test_bge :
    branched 6 false false false = some 0x40 ∧ branched 6 false true true = some 0x14 := by
  decide

theorem test_bgt :
    branched 7 false false false = some 0x40 ∧ branched 7 false true true = some 0x14 := by
  decide

theorem test_bltu :
    branched 8 false true true = some 0x40 ∧ branched 8 false false false = some 0x14 := by
  decide

theorem test_bleu :
    branched 9 false true true = some 0x40 ∧ branched 9 false false false = some 0x14 := by
  decide

theorem test_bgeu :
    branched 10 false false false = some 0x40 ∧ branched 10 false true true = some 0x14 := by
  decide

theorem test_bgtu :
    branched 11 false false false = some 0x40 ∧ branched 11 false true true = some 0x14 := by
  decide

theorem test_jump :
    (after 16 0x00E3 (start.setReg 3 0x0201)).map State.pc = some 0x0201 := by
  decide

theorem test_call :
    (after 32 0x0100000C (start.setPc 0x10)).map (fun t => (t.readWord 0xFFFD, t.reg 15, t.pc)) =
      some (0x0014, 0xFFFD, 0x0100) := by
  decide

theorem test_exec :
    (after 16 0x00F4 (((start.setReg 4 0x0300).setReg 15 0xFFFD).setPc 0x20)).map
      (fun t => (t.readWord 0xFFFB, t.reg 15, t.pc)) = some (0x0022, 0xFFFB, 0x0300) := by
  decide

theorem test_ret :
    (after 16 0x000D (((start.setReg 15 0xFFFD).writeWord 0xFFFD 0x0014).setPc 0x100)).map
      (fun t => (t.pc, t.reg 15)) = some (0x0014, 0xFFFF) := by
  decide

theorem test_halt :
    (after 16 0x0000 ((probe 5 0).setPc 0xE)).map (fun t => (alu 1 t, t.pc, t.halted)) =
      some ((5, false, false, false), 0, true) := by
  decide

theorem test_regs :
    (after 16 0x000E (probe 5 0)).map (fun t => (alu 1 t, t.pc, t.stdout)) =
      some ((5, true, true, true), 2, []) := by
  decide

theorem test_dump :
    (after 16 0x000F (probe 5 0)).map (fun t => (alu 1 t, t.pc, t.stdout)) =
      some ((5, true, true, true), 2, []) := by
  decide

/-- LI placed at 0xFFFF is fetched across the end of memory. -/
theorem test_fetch_wraps :
    (stepped ((((start.setPc 0xFFFF).writeByte 0xFFFF 0x11).writeByte 1 0x34).writeByte 2 0x12)).map
      (moved 1) = some (0x1234, 3) := by
  decide


/-! For each statement with hypotheses, states and operands that meet them, at the ends of their ranges. -/

/-- The probe with `ADDR_WRAP` = fault. -/
def strict (a b : Word) : State :=
  { probe a b with config := { (probe a b).config with addrWrap := .fault } }

/-- The probe with the stack pointer at a given address, under `ADDR_WRAP` = fault. -/
def strictSp (sp : Word) : State := (strict 0 0).setReg 15 sp

/-- The probe with given treatments of division. -/
def dividing (a b : Word) (signed : Bool) (overflow : DivOverflow) : State :=
  { probe a b with config := { (probe a b).config with divSigned := signed, divOverflow := overflow } }

/-- The probe with an input and a read position. -/
def reading (input : List Byte) (pos : Nat) (atEof : InAtEof) : State :=
  { probe 0 0 with
    stdin := input, stdinPos := pos, config := { (probe 0 0).config with inAtEof := atEof } }

theorem witness_EncodeOfDecodeGivesBytes :
    decode FieldMap.default [0x21, 0x53] = .ok (.add 1 2 3, []) ∧
    decode ⟨.swapped, .ops321, .ops231⟩ [0x5F, 0x00, 0xFF, 0xFF, 0x77] =
      .ok (.stw 15 0xFFFF, [0x77]) := by
  decide

theorem witness_ByteLoadsZeroExtend :
    Usable (strict 0xFFF0 0) (((strict 0xFFF0 0).reg 1).toNat + (15#4).toNat < 65536) ∧
    Usable (probe 0xFFFF 0) (((probe 0xFFFF 0).reg 1).toNat + (15#4).toNat < 65536) :=
  ⟨.inr (by decide), .inl rfl⟩

theorem witness_WordLoadsLittleEndian :
    Usable (strict 0xFFEF 0) ((0xFFFE#16).toNat + 1 < 65536) ∧
    Usable (probe 0 0) ((0xFFFF#16).toNat + 1 < 65536) ∧
    Usable (strict 0xFFEF 0) (((strict 0xFFEF 0).reg 1).toNat + (15#4).toNat + 1 < 65536) :=
  ⟨.inr (by decide), .inl rfl, .inr (by decide)⟩

theorem witness_ByteStoresChangeOneByte :
    Usable (strict 0xFFFF 0) (((strict 0xFFFF 0).reg 1).toNat + (0#4).toNat < 65536) ∧
    Usable (probe 0xFFFF 0) (((probe 0xFFFF 0).reg 1).toNat + (1#4).toNat < 65536) :=
  ⟨.inr (by decide), .inl rfl⟩

theorem witness_WordStoresChangeTwoBytes :
    Usable (strict 0xFFFE 0) ((0xFFFE#16).toNat + 1 < 65536) ∧
    Usable (probe 0 0) ((0xFFFF#16).toNat + 1 < 65536) ∧
    Usable (strict 0xFFFE 0) (((strict 0xFFFE 0).reg 1).toNat + (0#4).toNat + 1 < 65536) :=
  ⟨.inr (by decide), .inl rfl, .inr (by decide)⟩

theorem witness_StoredWordLoadsBack :
    Usable (strict 0 0) ((0xFFFE#16).toNat + 1 < 65536) ∧
    Usable (probe 0 0) ((0xFFFF#16).toNat + 1 < 65536) :=
  ⟨.inr (by decide), .inl rfl⟩

theorem witness_PushStoresBelowSp :
    Usable (strictSp 2) (2 ≤ ((strictSp 2).reg SP).toNat) ∧
    Usable (probe 0 0) (2 ≤ ((probe 0 0).reg SP).toNat) :=
  ⟨.inr (by decide), .inl rfl⟩

theorem witness_PopLoadsFromSp :
    (14#4 ≠ SP ∧ Usable (strictSp 0xFFFD) (((strictSp 0xFFFD).reg SP).toNat + 2 < 65536) ∧
      0xFFFD#16 = (strictSp 0xFFFD).reg SP) ∧
    (0#4 ≠ SP ∧ Usable (probe 0 0) (((probe 0 0).reg SP).toNat + 2 < 65536) ∧
      0xFFFF#16 = (probe 0 0).reg SP) :=
  ⟨⟨by decide, .inr (by decide), by decide⟩, by decide, .inl rfl, by decide⟩

theorem witness_PopSpChangesOnlySp :
    Usable (strictSp 0xFFFD) (((strictSp 0xFFFD).reg SP).toNat + 2 < 65536) := .inr (by decide)

theorem witness_PushThenPopGivesValueBack :
    14#4 ≠ SP ∧ Usable (strictSp 2) (2 ≤ ((strictSp 2).reg SP).toNat) :=
  ⟨by decide, .inr (by decide)⟩

theorem witness_InTakesNextByte :
    (reading [1, 2] 1 .fault).stdinPos < (reading [1, 2] 1 .fault).stdin.length := by decide

theorem witness_InAtEndOfInputStops :
    ((reading [1, 2] 2 .fault).stdin.length ≤ (reading [1, 2] 2 .fault).stdinPos ∧
      (reading [1, 2] 2 .fault).config.inAtEof = .fault) ∧
    ((reading [] 0 .block).stdin.length ≤ (reading [] 0 .block).stdinPos ∧
      (reading [] 0 .block).config.inAtEof = .block) := by decide

theorem witness_MovCopiesRegister :
    (probe 0 0).config.movDirection = .secondIsDestination ∧
    ({ probe 0 0 with config := { (probe 0 0).config with movDirection := .firstIsDestination } } :
      State).config.movDirection = .firstIsDestination := by decide

theorem witness_AbsAbsoluteValue :
    0 ≤ ((probe 0x7FFF 0).reg 1).toInt ∧ ((probe 0x8000 0).reg 1).toInt < 0 ∧
    (probe 0 0).config.carryNeg = .borrow ∧
    ({ probe 0 0 with config := { (probe 0 0).config with absModel := .likeNeg, carryNeg := .zero } } :
      State).config.carryNeg = .zero ∧
    ({ probe 0 0 with
        config := { (probe 0 0).config with absModel := .likeNeg, carryNeg := .overflow } } :
      State).config.carryNeg = .overflow := by decide

theorem witness_DivisionQuotientAndRemainder :
    (0x8000#16 = (dividing 0x8000 0xFFFE true .fault).reg 1 ∧
      0xFFFE#16 = (dividing 0x8000 0xFFFE true .fault).reg 2 ∧ 0xFFFE#16 ≠ 0#16 ∧
      ¬ ((dividing 0x8000 0xFFFE true .fault).config.divSigned = true ∧
        (dividing 0x8000 0xFFFE true .fault).config.divOverflow = .fault ∧
        0x8000#16 = 0x8000#16 ∧ 0xFFFE#16 = 0xFFFF#16)) ∧
    ((dividing 0xFFFF 1 false .fault).reg 1 = 0xFFFF#16 ∧ (1#4).setWidth 16 = 1#16 ∧ 1#16 ≠ 0#16 ∧
      (dividing 0xFFFF 1 false .fault).config.divSigned = false ∧
      (dividing 0xFFFF 1 false .fault).config.carryDiv = .zero) := by decide

theorem witness_DivisionByZeroStops : (probe 5 0).reg 2 = 0#16 := by decide

theorem witness_SignedDivisionOverflow :
    ((dividing 0x8000 0xFFFF true .wrap).reg 1 = 0x8000#16 ∧
      (dividing 0x8000 0xFFFF true .wrap).reg 2 = 0xFFFF#16 ∧
      (dividing 0x8000 0xFFFF true .wrap).config.divSigned = true ∧
      (dividing 0x8000 0xFFFF true .wrap).config.divOverflow = .wrap) ∧
    ((dividing 0x8000 0xFFFF true .fault).reg 1 = 0x8000#16 ∧
      (dividing 0x8000 0xFFFF true .fault).reg 2 = 0xFFFF#16 ∧
      (dividing 0x8000 0xFFFF true .fault).config.divSigned = true ∧
      (dividing 0x8000 0xFFFF true .fault).config.divOverflow = .fault) := by decide

theorem witness_SmallDivisionIgnoresSignedness :
    (0x7FFF#16).toNat < 0x8000 ∧ 0x7FFF#16 ≠ 0#16 ∧
    (∃ r1 r2 rt, 0x7FFF#16 = (probe 0x7FFF 0x7FFF).reg r1 ∧ 0x7FFF#16 = (probe 0x7FFF 0x7FFF).reg r2 ∧
      (Instr.mod 1 2 3 = .div r1 r2 rt ∨ Instr.mod 1 2 3 = .mod r1 r2 rt)) ∧
    (1#16).toNat < 0x8000 ∧ 1#16 ≠ 0#16 ∧
    (∃ r, ∃ v : Nibble, 0x7FFF#16 = (probe 0x7FFF 0).reg r ∧ 1#16 = v.setWidth 16 ∧
      (Instr.divq 1 1 = .divq r v ∨ Instr.divq 1 1 = .modq r v)) ∧
    (probe 0x7FFF 0).config.carryDiv = .zero :=
  ⟨by decide, by decide, ⟨1, 2, 3, by decide⟩, by decide, by decide, ⟨1, 1, by decide⟩, by decide⟩

theorem witness_ShiftLeftBits :
    ((∃ r1 r2, Instr.sal 1 2 3 = .sal r1 r2 3 ∧ 0x8001#16 = (probe 0x8001 16).reg r1 ∧
      16 = registerCount (probe 0x8001 16).config.shiftCountMode ((probe 0x8001 16).reg r2))) ∧
    (∃ v : Nibble, Instr.salq 1 15 = .salq 1 v ∧ 0xFFFF#16 = (probe 0xFFFF 0).reg 1 ∧ 15 = v.toNat) :=
  ⟨⟨1, 2, by decide⟩, 15, by decide⟩

theorem witness_ShiftArithmeticRight :
    ((∃ r1 r2, Instr.sar 1 2 3 = .sar r1 r2 3 ∧ 0x8000#16 = (probe 0x8000 15).reg r1 ∧
      15 = registerCount (probe 0x8000 15).config.shiftCountMode ((probe 0x8000 15).reg r2))) ∧
    (∃ v : Nibble, Instr.sarq 1 0 = .sarq 1 v ∧ 0x8000#16 = (probe 0x8000 0).reg 1 ∧ 0 = v.toNat) :=
  ⟨⟨1, 2, by decide⟩, 0, by decide⟩

theorem witness_ShiftLogicalRight :
    ((∃ r1 r2, Instr.slr 1 2 3 = .slr r1 r2 3 ∧ 0x8000#16 = (probe 0x8000 0xFFFF).reg r1 ∧
      65535 = registerCount (probe 0x8000 0xFFFF).config.shiftCountMode
        ((probe 0x8000 0xFFFF).reg r2))) ∧
    (∃ v : Nibble, Instr.slrq 1 0 = .slrq 1 v ∧ 0x8000#16 = (probe 0x8000 0).reg 1 ∧ 0 = v.toNat) :=
  ⟨⟨1, 2, by decide⟩, 0, by decide⟩

theorem witness_SmallShiftIgnoresCountMode :
    ((probe 0xFFFF 15).reg 2).toNat < 16 ∧ ((probe 0xFFFF 0).reg 2).toNat < 16 ∧
      (Instr.sal 1 2 3 = .sal 1 2 3 → (probe 0xFFFF 15).config.carrySal ≠ .any) ∧
      (Instr.sar 1 2 3 = .sal 1 2 3 → (probe 0xFFFF 0).config.carrySal ≠ .any) := by decide

theorem witness_LogicBitByBit :
    (∃ r1 r2, 0xFFFF#16 = (probe 0xFFFF 0x8000).reg r1 ∧ 0x8000#16 = (probe 0xFFFF 0x8000).reg r2 ∧
      Instr.xor 1 2 3 = .xor r1 r2 3) ∧
    (∃ v : Nibble, 0xFFFF#16 = (probe 0xFFFF 0).reg 1 ∧ 15#16 = v.setWidth 16 ∧
      Instr.orq 1 15 = .orq 1 v) ∧
    (Instr.not 1 = .not 1 ∧ 0xFFFF#16 = (probe 0xFFFF 0).reg 1) :=
  ⟨⟨1, 2, by decide⟩, ⟨15, by decide⟩, by decide⟩

theorem witness_ConditionalBranchesTestFlags :
    (Instr.beq 0xFFFF = .beq 0xFFFF ∧ (0x0002#16 : Word) = 0x0002#16 ∧
      ((probe 0 0).flagZ = true) = ((probe 0 0).flagZ = true)) ∧
    (Instr.bgtu 0 = .bgtu 0 ∧ (0x000B#16 : Word) = 0x000B#16 ∧
      ¬ ((probe 0 0).flagC = false ∧ (probe 0 0).flagZ = false)) :=
  ⟨⟨rfl, rfl, rfl⟩, rfl, rfl, by decide⟩

theorem witness_BranchesAfterCompare :
    (-32768 ≤ ((probe 0x8000 0).reg 1).toInt - ((probe 0x8000 0).reg 2).toInt ∧
      ((probe 0x8000 0).reg 1).toInt - ((probe 0x8000 0).reg 2).toInt ≤ 32767) ∧
    (-32768 ≤ ((probe 0 0x8001).reg 1).toInt - ((probe 0 0x8001).reg 2).toInt ∧
      ((probe 0 0x8001).reg 1).toInt - ((probe 0 0x8001).reg 2).toInt ≤ 32767) := by decide

theorem witness_CallAndExecPushReturnAddress :
    (Instr.call 0xFFFF = .call 0xFFFF ∧ Usable (strictSp 2) (2 ≤ ((strictSp 2).reg SP).toNat)) ∧
    ((∃ r, r ≠ SP ∧ Instr.exec 14 = .exec r ∧ 0#16 = (probe 0 0).reg r) ∧
      Usable (probe 0 0) (2 ≤ ((probe 0 0).reg SP).toNat)) :=
  ⟨⟨rfl, .inr (by decide)⟩, ⟨14, by decide⟩, .inl rfl⟩

theorem witness_ExecSpPushesReturnAddress :
    Usable (strictSp 2) (2 ≤ ((strictSp 2).reg SP).toNat) := .inr (by decide)

theorem witness_RetGoesToPoppedWord :
    Usable (strictSp 0xFFFD) (((strictSp 0xFFFD).reg SP).toNat + 2 < 65536) ∧
      0xFFFD#16 = (strictSp 0xFFFD).reg SP :=
  ⟨.inr (by decide), by decide⟩

theorem witness_CallThenRetReturns :
    (∃ imm, Instr.call 0x0100 = .call imm) ∧ (∃ r, r ≠ SP ∧ Instr.exec 14 = .exec r) ∧
      Usable (strictSp 2) (2 ≤ ((strictSp 2).reg SP).toNat) :=
  ⟨⟨_, rfl⟩, ⟨14, by decide⟩, .inr (by decide)⟩

theorem witness_HaltedMachineStaysAsItIs :
    ({ start with halted := true } : State).halted = true := by decide

theorem witness_ZeroedMemoryHalts :
    ((strict 0 0).setPc 0xFFFD).halted = false ∧ ((strict 0 0).setPc 0xFFFD).readByte 0xFFFD = 0 ∧
      ((strict 0 0).setPc 0xFFFD).readByte (0xFFFD + 1) = 0 ∧
      Usable ((strict 0 0).setPc 0xFFFD) (((strict 0 0).setPc 0xFFFD).pc.toNat + 2 < 65536) :=
  ⟨by decide, by decide, by decide, .inr (by decide)⟩

theorem witness_DisplaysChangeOnlyOutput :
    (Instr.dump = .regs ∨ Instr.dump = .dump) ∧ (probe 0 0).config.debugMode = false := by decide

/-- A `RESET_STATE` that is not the spec's default. -/
def otherReset : ResetState := ⟨Vector.replicate 16 0x1234#16, 0x8000#16, false, true, true, false⟩

theorem witness_StartStateValues :
    (∃ s, s = State.start (Config.defaults .full) otherReset [(0, 0x21)] [7] ∧ s.pc = 0x8000#16 ∧
      s.reg SP = 0x1234#16 ∧ s.flagN = true) ∧
    (∃ s, s = State.start (Config.defaults .full) (ResetState.defaults otherReset.regs) [] [] ∧
      s.reg SP = 0xFFFF#16 ∧ s.reg 14 = 0x1234#16) :=
  ⟨⟨_, rfl, by decide⟩, _, rfl, by decide⟩

theorem witness_OnlyListedRegistersChange : ∃ t, exec (.add 1 2 15) (probe 1 2) = .next t := ⟨_, rfl⟩

theorem witness_OnlyListedInstructionsWriteFlags :
    (∃ t, exec (.push 1) (probe 1 2) = .next t) ∧ writesFlags (.push 1) = false ∧
      Instr.push 1 ≠ .halt :=
  ⟨⟨_, rfl⟩, by decide⟩

theorem witness_FlagsFollowResult :
    (∃ t, exec (.mul 1 2 15) (probe 1 2) = .next t) ∧ writesFlags (.mul 1 2 15) = true ∧
      Instr.mul 1 2 15 ≠ .halt ∧ 15#4 ∈ destinations (probe 1 2).config (.mul 1 2 15) :=
  ⟨⟨_, rfl⟩, by decide⟩

theorem witness_OnlyStoredBytesChange : ∃ t, exec (.stw 1 0xFFFF) (probe 1 2) = .next t := ⟨_, rfl⟩

theorem witness_StreamsAndConfigurationFrame :
    (∃ t, exec (.out 1) (probe 1 2) = .next t) ∧ (∀ r, Instr.out 1 ≠ .inp r) ∧
    (∃ t, exec (.inp 1) (reading [7] 0 .fault) = .next t) ∧ (∃ r, Instr.inp 1 = .inp r) :=
  ⟨⟨_, rfl⟩, by decide, ⟨_, rfl⟩, 1, rfl⟩

theorem witness_OnlyBranchesAndHaltMovePc :
    (∃ t, exec (.pop 1) (probe 1 2) = .next t) ∧ (Instr.pop 1).format ≠ .x ∧
      (∀ r, Instr.pop 1 ≠ .jump r) ∧ (∀ r, Instr.pop 1 ≠ .exec r) ∧ Instr.pop 1 ≠ .ret ∧
      Instr.pop 1 ≠ .halt :=
  ⟨⟨_, rfl⟩, by decide⟩

theorem witness_ListedFaultsAreAll :
    (probe 0 0).config.addrWrap = .wrap ∧ (probe 0 0).config.divOverflow = .wrap ∧
      (probe 0 0).config.inAtEof = .fault := by decide

theorem witness_AddressWrapStopsWhereConfigured :
    (strict 0 0).config.addrWrap = .fault ∧ (0xFFFF#16).toNat = 65535 ∧
    65536 ≤ ((strict 0xFFF1 0).reg 1).toNat + (15#4).toNat ∧
    65535 ≤ ((strict 0xFFF0 0).reg 1).toNat + (15#4).toNat ∧
    ((strictSp 1).reg SP).toNat < 2 ∧ 65534 ≤ ((strictSp 0xFFFE).reg SP).toNat ∧
    ((strict 0 0).setPc 0xFFFE).halted = false ∧
    65536 ≤ ((strict 0 0).setPc 0xFFFE).pc.toNat + ((strict 0 0).setPc 0xFFFE).fetch.length := by
  decide

theorem witness_StepRunsDecodedInstruction :
    ((strict 0 0).withFetchWord 32 0xFFFF001A).halted = false ∧
    decode ((strict 0 0).withFetchWord 32 0xFFFF001A).config.fieldMap
      ((strict 0 0).withFetchWord 32 0xFFFF001A).fetchBytes = .ok (.li 10 0xFFFF, []) ∧
    Usable ((strict 0 0).withFetchWord 32 0xFFFF001A)
      (((strict 0 0).withFetchWord 32 0xFFFF001A).pc.toNat + (Instr.li 10 0xFFFF).length < 65536) :=
  ⟨by decide, by decide, .inr (by decide)⟩

theorem witness_StoreSeenByNextFetch :
    Usable ((strict 0 0).setPc 0xFFFE) (((strict 0 0).setPc 0xFFFE).pc.toNat + 1 < 65536) :=
  .inr (by decide)

theorem witness_StepKeepsInvariant :
    (start.withFetchWord 16 0x00A1).Inv ∧ (∃ t, step (start.withFetchWord 16 0x00A1) = .next t) ∧
    ({ start with halted := true } : State).Inv ∧
      ∃ t, step ({ start with halted := true } : State) = .next t :=
  ⟨⟨by decide, by decide, by decide, by decide⟩, ⟨_, rfl⟩,
    ⟨by decide, by decide, by decide, by decide⟩, _, rfl⟩

theorem witness_StartStateHasInvariant :
    Memory.wf [(0, 0x21), (1, 0x53), (65535, 0xFF)] = true ∧
    ¬ (otherReset.flagZ = true ∧ otherReset.flagN = true) ∧
    (otherReset.halted = true → otherReset.pc = 0#16 ∧ otherReset.flagZ = false ∧
      otherReset.flagN = false ∧ otherReset.flagC = false) := by
  decide

theorem witness_CycleCountsFollowPattern :
    (∃ a b t, Instr.mul 1 2 3 = .mul a b t) ∧
    (∃ r v, Instr.modq 1 2 = .divq r v ∨ Instr.modq 1 2 = .modq r v) ∧
    ((∀ r, Instr.ret ≠ .inp r ∧ Instr.ret ≠ .out r) ∧
      (∀ a b t, Instr.ret ≠ .mul a b t ∧ Instr.ret ≠ .div a b t ∧ Instr.ret ≠ .mod a b t) ∧
      ∀ r v, Instr.ret ≠ .mulq r v ∧ Instr.ret ≠ .divq r v ∧ Instr.ret ≠ .modq r v) :=
  ⟨⟨1, 2, 3, rfl⟩, ⟨1, 2, .inr rfl⟩, by simp⟩

end Sys2Proof.Tests
end

namespace Sys2Proof

/-! The word of four hex digits, as shifts and ors (R86, R90). -/

theorem packNibbles_eq_or (n3 n2 n1 n0 : Nibble) :
    packNibbles n3 n2 n1 n0 =
      n3.setWidth 16 <<< 12 ||| n2.setWidth 16 <<< 8 ||| n1.setWidth 16 <<< 4 ||| n0.setWidth 16 := by
  have digit_high (n : Nibble) (i : Nat) (h : 4 ≤ i) : n.getLsbD i = false :=
    BitVec.getLsbD_of_ge n i h
  apply BitVec.eq_of_getLsbD_eq
  intro i hi
  rw [packNibbles_getLsbD]
  simp only [BitVec.getLsbD_or, BitVec.getLsbD_shiftLeft, BitVec.getLsbD_setWidth]
  split
  · simp [show i < 8 by omega, show i < 12 by omega, *]
  · split
    · simp [show i < 12 by omega, show i - 4 < 16 by omega, digit_high n0 i (by omega), *]
    · split
      · simp [show i - 8 < 16 by omega, digit_high n0 i (by omega),
          digit_high n1 (i - 4) (by omega), *]
      · simp [show i - 12 < 16 by omega, digit_high n0 i (by omega),
          digit_high n1 (i - 4) (by omega), digit_high n2 (i - 8) (by omega), *]

theorem encode_ldq (fm : FieldMap) (r : Reg) (v : Nibble) :
    encode fm (.ldq r v) = [0x0300#16 ||| (v.setWidth 16 <<< 4) ||| r.setWidth 16] := by
  have first : encode fm (.ldq r v) = [packNibbles 0 3 v r] := rfl
  rw [first, packNibbles_eq_or]
  rfl

theorem encode_li (fm : FieldMap) (r : Reg) (imm : Word) :
    encode fm (.li r imm) = [0x0010#16 ||| r.setWidth 16, imm] := by
  have first : encode fm (.li r imm) = [packNibbles 0 0 1 r, imm] := rfl
  rw [first, packNibbles_eq_or]
  rfl

end Sys2Proof

namespace Sys2Proof.Machine

/-- Writing a register changes nothing else (R43). -/
theorem onlyReg_setReg (s : State) (r : Reg) (v : Word) : OnlyReg s (s.setReg r v) r := by
  have regs : SameRegs s (s.setReg r v) [r] := fun q hq =>
    s.reg_setReg_other r q v (List.ne_of_not_mem_cons hq)
  have flags : SameFlags s (s.setReg r v) := ⟨rfl, rfl, rfl⟩
  have mem : SameMem s (s.setReg r v) [] := fun a _ => s.setReg_readByte r v a
  have streams : SameStreams s (s.setReg r v) := ⟨rfl, rfl, rfl⟩
  have mode : SameMode s (s.setReg r v) := ⟨rfl, rfl⟩
  exact ⟨regs, flags, s.setReg_pc r v, mem, streams, mode⟩

theorem exec_ldq (s : State) (r : Reg) (v : Nibble) :
    exec (.ldq r v) s = .next (s.setReg r (zextNibble v)) := rfl

theorem exec_li (s : State) (r : Reg) (imm : Word) :
    exec (.li r imm) s = .next (s.setReg r imm) := rfl

/-- Settles O6: both forms are one register write, of the zero-extended nibble or of the second word. -/
theorem ldqAndLiLoadConstants : Obligations.LdqAndLiLoadConstants := by
  unfold Obligations.LdqAndLiLoadConstants
  intro fm s r
  constructor
  · intro v
    have value : ((s.setReg r (zextNibble v)).reg r).toNat = v.toNat := by simp
    exact ⟨encode_ldq fm r v, rfl, rfl, _, exec_ldq s r v, value, onlyReg_setReg s r _⟩
  · intro imm
    exact ⟨encode_li fm r imm, rfl, rfl, _, exec_li s r imm, s.reg_setReg_same r imm,
      onlyReg_setReg s r imm⟩

end Sys2Proof.Machine

namespace Sys2Proof

theorem encode_ext (fm : FieldMap) (r : Reg) :
    encode fm (.ext r) = [0x0090#16 ||| r.setWidth 16] := by
  have first : encode fm (.ext r) = [packNibbles 0 0 9 r] := rfl
  rw [first, packNibbles_eq_or]
  rfl

theorem lowByte_getLsbD (w : Word) (k : Nat) (hk : k < 8) : (lowByte w).getLsbD k = w.getLsbD k := by
  simp [lowByte, hk]

end Sys2Proof

namespace Sys2Proof.Machine

/-- A byte sign-extended keeps its own bits and repeats bit 7 above them (R142). -/
theorem sextByte_getLsbD (b : Byte) (k : Nat) (hk : k < 16) :
    (sextByte b).getLsbD k = if k < 8 then b.getLsbD k else b.getLsbD 7 := by
  have eq_signExtend : sextByte b = b.signExtend 16 := rfl
  rw [eq_signExtend, BitVec.getLsbD_signExtend, BitVec.msb_eq_getLsbD_last]
  simp [hk]

@[simp] theorem clearedOp_value (v : Word) : (clearedOp v).value = v := rfl
@[simp] theorem clearedOp_carry (v : Word) : (clearedOp v).carry = some false := rfl

/-- Writing a result changes only its register and the flags, Z and N following the result (R31). -/
theorem resultIn_setResult (s : State) (r : Reg) (x : AluResult) : ResultIn s (s.setResult r x) r := by
  have value : (s.setResult r x).reg r = x.value := by simp
  have flags : FlagsOf (s.setResult r x) ((s.setResult r x).reg r) := by
    rw [value]
    exact ⟨s.setResult_flagZ r x, (s.setResult_flagN r x).trans (BitVec.msb_eq_getLsbD_last _)⟩
  have regs : SameRegs s (s.setResult r x) [r] := fun q hq => by
    rw [State.reg_setResult, if_neg (List.ne_of_not_mem_cons hq)]
  have mem : SameMem s (s.setResult r x) [] := fun a _ => s.setResult_readByte r x a
  have streams : SameStreams s (s.setResult r x) :=
    ⟨s.setResult_stdin r x, s.setResult_stdinPos r x, s.setResult_stdout r x⟩
  have mode : SameMode s (s.setResult r x) := ⟨s.setResult_halted r x, s.setResult_config r x⟩
  exact ⟨flags, regs, s.setResult_pc r x, mem, streams, mode⟩

theorem exec_ext (s : State) (r : Reg) :
    exec (.ext r) s = .next (s.setResult r (clearedOp (sextByte (lowByte (s.reg r))))) := rfl

/-- After EXT bit k of the register is bit k of the old low byte, or its bit 7 from 8 up (R142). -/
theorem reg_ext_getLsbD (s : State) (r : Reg) (k : Nat) (hk : k < 16) :
    ((s.setResult r (clearedOp (sextByte (lowByte (s.reg r))))).reg r).getLsbD k =
      if k < 8 then (s.reg r).getLsbD k else (s.reg r).getLsbD 7 := by
  have value : (s.setResult r (clearedOp (sextByte (lowByte (s.reg r))))).reg r =
      sextByte (lowByte (s.reg r)) := by simp
  rw [value, sextByte_getLsbD _ k hk, lowByte_getLsbD _ 7 (by decide)]
  split
  · rw [lowByte_getLsbD _ k ‹_›]
  · rfl

/-- Settles O22: EXT writes one cleared-carry result, whose bits are those of the sign-extended low byte. -/
theorem extSignExtendsLowByte : Obligations.ExtSignExtendsLowByte := by
  unfold Obligations.ExtSignExtendsLowByte
  intro fm s r
  refine ⟨encode_ext fm r, rfl, rfl, _, exec_ext s r, ?low, ?high, ?carry, resultIn_setResult s r _⟩
  case low =>
    intro k hk
    rw [reg_ext_getLsbD s r k (by omega), if_pos hk]
  case high =>
    intro k h8 h16
    rw [reg_ext_getLsbD s r k h16, if_neg (by omega)]
  case carry => simp

end Sys2Proof.Machine

namespace Sys2Proof.Machine

/-- A quick operand is the nibble zero-extended, in the spelling the statements use (R187, R189, R191). -/
theorem zextNibble_eq_setWidth (v : Nibble) : zextNibble v = v.setWidth 16 :=
  BitVec.ofNat_toNat 16 v

/-! The seven logic instructions: each writes one result with C cleared (R185 to R192). -/

section Logic

variable (s : State) (r1 r2 r : Reg) (v : Nibble)

theorem exec_not : exec (.not r) s = .next (s.setResult r (clearedOp (~~~s.reg r))) := rfl

theorem exec_and :
    exec (.and r1 r2 r) s = .next (s.setResult r (clearedOp (s.reg r1 &&& s.reg r2))) := rfl

theorem exec_or :
    exec (.or r1 r2 r) s = .next (s.setResult r (clearedOp (s.reg r1 ||| s.reg r2))) := rfl

theorem exec_xor :
    exec (.xor r1 r2 r) s = .next (s.setResult r (clearedOp (s.reg r1 ^^^ s.reg r2))) := rfl

theorem exec_andq :
    exec (.andq r v) s = .next (s.setResult r (clearedOp (s.reg r &&& v.setWidth 16))) := by
  rw [← zextNibble_eq_setWidth]
  rfl

theorem exec_orq :
    exec (.orq r v) s = .next (s.setResult r (clearedOp (s.reg r ||| v.setWidth 16))) := by
  rw [← zextNibble_eq_setWidth]
  rfl

theorem exec_xorq :
    exec (.xorq r v) s = .next (s.setResult r (clearedOp (s.reg r ^^^ v.setWidth 16))) := by
  rw [← zextNibble_eq_setWidth]
  rfl

end Logic

/-- An instruction that writes one cleared-carry result, whose bits are `f` of the operands' bits, does
what R192 says of the logic family. -/
theorem logicResult_of_exec_eq {s : State} {i : Instr} {rd : Reg} {f : Bool → Bool → Bool}
    {a b w : Word} (run : exec i s = .next (s.setResult rd (clearedOp w)))
    (bits : ∀ k, k < 16 → w.getLsbD k = f (a.getLsbD k) (b.getLsbD k)) :
    ∃ t, exec i s = .next t ∧
      (∀ k, k < 16 → (t.reg rd).getLsbD k = f (a.getLsbD k) (b.getLsbD k)) ∧
      t.flagC = false ∧ ResultIn s t rd := by
  have value : (s.setResult rd (clearedOp w)).reg rd = w := by simp
  have carry : (s.setResult rd (clearedOp w)).flagC = false := by simp
  refine ⟨_, run, fun k hk => ?_, carry, resultIn_setResult s rd _⟩
  rw [value, bits k hk]

/-- Settles O35: each of the seven forms writes one cleared-carry result, and its word operation acts on
each bit apart. -/
theorem logicBitByBit : Obligations.LogicBitByBit := by
  unfold Obligations.LogicBitByBit
  rintro s i rd f a b (⟨r1, r2, rfl, rfl, form⟩ | ⟨v, rfl, rfl, form⟩ | ⟨rfl, rfl, rfl⟩)
  case inl =>
    obtain ⟨rfl, rfl⟩ | ⟨rfl, rfl⟩ | ⟨rfl, rfl⟩ := form
    · exact logicResult_of_exec_eq (exec_and s r1 r2 rd) fun _ _ => BitVec.getLsbD_and
    · exact logicResult_of_exec_eq (exec_or s r1 r2 rd) fun _ _ => BitVec.getLsbD_or
    · exact logicResult_of_exec_eq (exec_xor s r1 r2 rd) fun _ _ => BitVec.getLsbD_xor
  case inr.inl =>
    obtain ⟨rfl, rfl⟩ | ⟨rfl, rfl⟩ | ⟨rfl, rfl⟩ := form
    · exact logicResult_of_exec_eq (exec_andq s rd v) fun _ _ => BitVec.getLsbD_and
    · exact logicResult_of_exec_eq (exec_orq s rd v) fun _ _ => BitVec.getLsbD_or
    · exact logicResult_of_exec_eq (exec_xorq s rd v) fun _ _ => BitVec.getLsbD_xor
  case inr.inr =>
    refine logicResult_of_exec_eq (f := fun x _ => !x) (a := s.reg rd) (b := b) (exec_not s rd) ?_
    intro k hk
    rw [BitVec.getLsbD_not, decide_eq_true hk, Bool.true_and]

end Sys2Proof.Machine

namespace Sys2Proof

theorem encode_jump (fm : FieldMap) (r : Reg) :
    encode fm (.jump r) = [0x00E0#16 ||| r.setWidth 16] := by
  have first : encode fm (.jump r) = [packNibbles 0 0 0xE r] := rfl
  rw [first, packNibbles_eq_or]
  rfl

end Sys2Proof

namespace Sys2Proof.Machine

/-! What a change of pc leaves alone (R43). -/

theorem onlyPc_refl (s : State) : OnlyPc s s :=
  ⟨fun _ _ => rfl, ⟨rfl, rfl, rfl⟩, fun _ _ => rfl, ⟨rfl, rfl, rfl⟩, rfl, rfl⟩

theorem onlyPc_setPc (s : State) (target : Word) : OnlyPc s (s.setPc target) := by
  have regs : SameRegs s (s.setPc target) [] := fun q _ => s.setPc_reg target q
  have flags : SameFlags s (s.setPc target) :=
    ⟨s.setPc_flagZ target, s.setPc_flagN target, s.setPc_flagC target⟩
  have mem : SameMem s (s.setPc target) [] := fun a _ => s.setPc_readByte target a
  have streams : SameStreams s (s.setPc target) :=
    ⟨s.setPc_stdin target, s.setPc_stdinPos target, s.setPc_stdout target⟩
  have mode : SameMode s (s.setPc target) := ⟨s.setPc_halted target, s.setPc_config target⟩
  exact ⟨regs, flags, mem, streams, mode⟩

theorem onlyPc_branchIf (s : State) (c : Bool) (target : Word) :
    OnlyPc s (s.branchIf c target) := by
  cases c with
  | true => exact onlyPc_setPc s target
  | false => exact onlyPc_refl s

theorem exec_b (s : State) (imm : Word) : exec (.b imm) s = .next (s.setPc imm) := rfl

theorem exec_jump (s : State) (r : Reg) : exec (.jump r) s = .next (s.setPc (s.reg r)) := rfl

/-- Settles O36: both forms are one write of pc, with the second word or with the register's value. -/
theorem bAndJumpGoToTarget : Obligations.BAndJumpGoToTarget := by
  unfold Obligations.BAndJumpGoToTarget
  intro fm s
  constructor
  · intro imm
    exact ⟨rfl, rfl, rfl, _, exec_b s imm, s.setPc_pc imm, onlyPc_setPc s imm⟩
  · intro r
    exact ⟨encode_jump fm r, rfl, rfl, _, exec_jump s r, s.setPc_pc (s.reg r),
      onlyPc_setPc s (s.reg r)⟩

/-! The ten conditional branches: each a `branchIf` on its test of the flags (R201 to R210). -/

section ConditionalBranches

variable (s : State) (imm : Word)

theorem exec_beq : exec (.beq imm) s = .next (s.branchIf s.flagZ imm) := rfl

theorem exec_bne : exec (.bne imm) s = .next (s.branchIf (!s.flagZ) imm) := rfl

theorem exec_blt : exec (.blt imm) s = .next (s.branchIf s.flagN imm) := rfl

theorem exec_ble : exec (.ble imm) s = .next (s.branchIf (s.flagN || s.flagZ) imm) := rfl

theorem exec_bge : exec (.bge imm) s = .next (s.branchIf (!s.flagN) imm) := rfl

theorem exec_bgt : exec (.bgt imm) s = .next (s.branchIf (!(s.flagN || s.flagZ)) imm) := rfl

theorem exec_bltu : exec (.bltu imm) s = .next (s.branchIf s.flagC imm) := rfl

theorem exec_bleu : exec (.bleu imm) s = .next (s.branchIf (s.flagC || s.flagZ) imm) := rfl

theorem exec_bgeu : exec (.bgeu imm) s = .next (s.branchIf (!s.flagC) imm) := rfl

theorem exec_bgtu : exec (.bgtu imm) s = .next (s.branchIf (!(s.flagC || s.flagZ)) imm) := rfl

end ConditionalBranches

/-- A branch goes to its target where its test holds, else on to the next instruction, and changes
nothing but pc (R216). -/
theorem branches_of_exec_eq {s : State} {i : Instr} {c : Bool} {imm : Word} {taken : Prop}
    (run : exec i s = .next (s.branchIf c imm)) (test : c = true ↔ taken) :
    ∃ t, exec i s = .next t ∧ (taken → t.pc = imm) ∧ (¬ taken → t.pc = s.pc) ∧ OnlyPc s t := by
  refine ⟨_, run, fun h => ?goes, fun h => ?falls, onlyPc_branchIf s c imm⟩
  case goes => rw [State.branchIf_pc, if_pos (test.2 h)]
  case falls => rw [State.branchIf_pc, if_neg (mt test.1 h)]

/-- Settles O37: each of the ten forms is a `branchIf`, whose Boolean test says what the statement does
of the flags. -/
theorem conditionalBranchesTestFlags : Obligations.ConditionalBranchesTestFlags := by
  unfold Obligations.ConditionalBranchesTestFlags
  intro fm s imm i code taken form
  obtain ⟨rfl, rfl, rfl⟩ | ⟨rfl, rfl, rfl⟩ | ⟨rfl, rfl, rfl⟩ | ⟨rfl, rfl, rfl⟩ | ⟨rfl, rfl, rfl⟩ |
    ⟨rfl, rfl, rfl⟩ | ⟨rfl, rfl, rfl⟩ | ⟨rfl, rfl, rfl⟩ | ⟨rfl, rfl, rfl⟩ | ⟨rfl, rfl, rfl⟩ := form
  · exact ⟨rfl, rfl, rfl, branches_of_exec_eq (exec_beq s imm) Iff.rfl⟩
  · exact ⟨rfl, rfl, rfl, branches_of_exec_eq (exec_bne s imm) (Bool.not_eq_true' _).to_iff⟩
  · exact ⟨rfl, rfl, rfl, branches_of_exec_eq (exec_blt s imm) Iff.rfl⟩
  · exact ⟨rfl, rfl, rfl, branches_of_exec_eq (exec_ble s imm) Bool.or_eq_true_iff⟩
  · exact ⟨rfl, rfl, rfl, branches_of_exec_eq (exec_bge s imm) (Bool.not_eq_true' _).to_iff⟩
  · exact ⟨rfl, rfl, rfl, branches_of_exec_eq (exec_bgt s imm)
      ((Bool.not_eq_true' _).to_iff.trans Bool.or_eq_false_iff)⟩
  · exact ⟨rfl, rfl, rfl, branches_of_exec_eq (exec_bltu s imm) Iff.rfl⟩
  · exact ⟨rfl, rfl, rfl, branches_of_exec_eq (exec_bleu s imm) Bool.or_eq_true_iff⟩
  · exact ⟨rfl, rfl, rfl, branches_of_exec_eq (exec_bgeu s imm) (Bool.not_eq_true' _).to_iff⟩
  · exact ⟨rfl, rfl, rfl, branches_of_exec_eq (exec_bgtu s imm)
      ((Bool.not_eq_true' _).to_iff.trans Bool.or_eq_false_iff)⟩

end Sys2Proof.Machine

namespace Sys2Proof.Machine

/-! A step that keeps the register file, or the memory, keeps what each reads (R43). -/

theorem sameRegs_of_regs_eq {s t : State} (same : t.regs = s.regs) : SameRegs s t [] := fun r _ => by
  rw [State.reg, State.reg, same]

theorem sameMem_of_mem_eq {s t : State} (same : t.mem = s.mem) : SameMem s t [] := fun a _ => by
  rw [State.readByte, State.readByte, same]

theorem encode_halt (fm : FieldMap) : encode fm .halt = [0x0000#16] := rfl

theorem exec_halt (s : State) :
    exec .halt s = .next { s with
      pc := 0#16, flagZ := false, flagN := false, flagC := false, halted := true } := rfl

/-- Settles O43: HALT is one update of pc, the flags and H, which touches neither the register file, the
memory, the streams nor the configuration. -/
theorem haltClearsPcAndFlags : Obligations.HaltClearsPcAndFlags := by
  unfold Obligations.HaltClearsPcAndFlags
  intro fm s
  refine ⟨encode_halt fm, rfl, rfl, _, exec_halt s, rfl, rfl, rfl, rfl, rfl, ?regs, ?mem, ?streams,
    rfl⟩
  case regs => exact sameRegs_of_regs_eq rfl
  case mem => exact sameMem_of_mem_eq rfl
  case streams => exact ⟨rfl, rfl, rfl⟩

end Sys2Proof.Machine

namespace Sys2Proof

/-! Decoding group by group (R86, R88): the leading digits of the first word choose the group. -/

section Groups

variable (fm : FieldMap) (op n2 n1 n0 : Nibble) (imm : Word)

theorem decodeWords_opX : decodeWords fm (packNibbles 0 0 0 op) imm = decodeOpX op imm := by
  simp [decodeWords]

theorem decodeWords_rRx (h : op ≠ 0) :
    decodeWords fm (packNibbles 0 0 op n0) imm = decodeRRx op n0 imm := by
  simpa [decodeWords] using fun h0 => absurd h0 h

theorem decodeWords_rrIr (h : op ≠ 0) :
    decodeWords fm (packNibbles 0 op n1 n0) imm = decodeRrIr fm op n1 n0 := by
  simpa [decodeWords] using fun h0 => absurd h0 h

theorem decodeWords_rrrIrr (h : op ≠ 0) :
    decodeWords fm (packNibbles op n2 n1 n0) imm = decodeRrrIrr fm op n2 n1 n0 := by
  simpa [decodeWords] using fun h0 => absurd h0 h

/-! Encoding undoes the decoding of each group: sixteen opcodes, or fifteen where 0 leads to the next
group. -/

theorem encodeFirst_decodeOpX :
    encodeFirst fm (decodeOpX op imm) = packNibbles 0 0 0 op := by
  induction op using nibble_cases <;> rfl

theorem encodeFirst_decodeRRx (h : op ≠ 0) :
    encodeFirst fm (decodeRRx op n0 imm) = packNibbles 0 0 op n0 := by
  induction op using nibble_cases
  case h0 => exact absurd rfl h
  all_goals rfl

theorem encodeRr_pick :
    encodeRr fm op (fm.rr.pick n0 n1).1 (fm.rr.pick n0 n1).2 = packNibbles 0 op n1 n0 := by
  simp [encodeRr]

theorem encodeRrr_pick :
    encodeRrr fm op (fm.rrr.pick n0 n1 n2).1 (fm.rrr.pick n0 n1 n2).2.1 (fm.rrr.pick n0 n1 n2).2.2 =
      packNibbles op n2 n1 n0 := by
  simp [encodeRrr]

theorem encodeIrr_pick :
    encodeIrr fm op (fm.irr.pick n0 n1 n2).1 (fm.irr.pick n0 n1 n2).2.1 (fm.irr.pick n0 n1 n2).2.2 =
      packNibbles op n2 n1 n0 := by
  simp [encodeIrr]

theorem encodeFirst_decodeRrIr (h : op ≠ 0) :
    encodeFirst fm (decodeRrIr fm op n1 n0) = packNibbles 0 op n1 n0 := by
  induction op using nibble_cases
  case h0 => exact absurd rfl h
  case h1 | h2 => exact encodeRr_pick fm _ n1 n0
  all_goals rfl

theorem encodeFirst_decodeRrrIrr (h : op ≠ 0) :
    encodeFirst fm (decodeRrrIrr fm op n2 n1 n0) = packNibbles op n2 n1 n0 := by
  induction op using nibble_cases
  case h0 => exact absurd rfl h
  case h1 | h2 | h3 | h4 => exact encodeIrr_pick fm _ n2 n1 n0
  all_goals exact encodeRrr_pick fm _ n2 n1 n0

end Groups

/-- A property of first words holds if it holds of the four groups of the opcode map (R88). -/
theorem word_groups {P : Word → Prop} (opX : ∀ op, P (packNibbles 0 0 0 op))
    (rRx : ∀ op n0, op ≠ 0 → P (packNibbles 0 0 op n0))
    (rrIr : ∀ op n1 n0, op ≠ 0 → P (packNibbles 0 op n1 n0))
    (rrrIrr : ∀ op n2 n1 n0, op ≠ 0 → P (packNibbles op n2 n1 n0)) (w : Word) : P w := by
  rw [← packNibbles_nibbles w]
  by_cases h3 : nibble w 3 = 0
  · rw [h3]
    by_cases h2 : nibble w 2 = 0
    · rw [h2]
      by_cases h1 : nibble w 1 = 0
      · rw [h1]
        exact opX _
      · exact rRx _ _ h1
    · exact rrIr _ _ _ h2
  · exact rrrIrr _ _ _ _ h3

/-- Encoding the first word undoes decoding it: no bit is dropped (R90). -/
theorem encodeFirst_decodeWords (fm : FieldMap) (w imm : Word) :
    encodeFirst fm (decodeWords fm w imm) = w := by
  induction w using word_groups with
  | opX op => rw [decodeWords_opX, encodeFirst_decodeOpX]
  | rRx op n0 h => rw [decodeWords_rRx fm op n0 imm h, encodeFirst_decodeRRx fm op n0 imm h]
  | rrIr op n1 n0 h => rw [decodeWords_rrIr fm op n1 n0 imm h, encodeFirst_decodeRrIr fm op n1 n0 h]
  | rrrIrr op n2 n1 n0 h =>
    rw [decodeWords_rrrIrr fm op n2 n1 n0 imm h, encodeFirst_decodeRrrIrr fm op n2 n1 n0 h]

/-! The second word (R81): a decoded instruction has one exactly where its first word asks for it. -/

theorem secondWord_decodeOpX (op : Nibble) (imm : Word) :
    secondWord (decodeOpX op imm) =
      if hasSecondWord (packNibbles 0 0 0 op) then some imm else none := by
  induction op using nibble_cases <;> rfl

theorem hasSecondWord_rRx (op n0 : Nibble) (h : op ≠ 0) :
    hasSecondWord (packNibbles 0 0 op n0) = decide (op.toNat ≤ 5) := by
  simpa [hasSecondWord] using fun h0 => absurd h0 h

theorem secondWord_decodeRRx (op n0 : Nibble) (imm : Word) (h : op ≠ 0) :
    secondWord (decodeRRx op n0 imm) =
      if hasSecondWord (packNibbles 0 0 op n0) then some imm else none := by
  rw [hasSecondWord_rRx op n0 h]
  induction op using nibble_cases
  case h0 => exact absurd rfl h
  all_goals rfl

theorem secondWord_decodeRrIr (fm : FieldMap) (op n1 n0 : Nibble) :
    secondWord (decodeRrIr fm op n1 n0) = none := by
  induction op using nibble_cases <;> rfl

theorem secondWord_decodeRrrIrr (fm : FieldMap) (op n2 n1 n0 : Nibble) :
    secondWord (decodeRrrIrr fm op n2 n1 n0) = none := by
  induction op using nibble_cases <;> rfl

theorem hasSecondWord_of_high_digit (op n2 n1 n0 : Nibble) (h : op ≠ 0 ∨ n2 ≠ 0) :
    hasSecondWord (packNibbles op n2 n1 n0) = false := by
  obtain h | h := h
  · simpa [hasSecondWord] using fun h0 => absurd h0 h
  · simpa [hasSecondWord] using fun _ h0 => absurd h0 h

theorem secondWord_decodeWords (fm : FieldMap) (w imm : Word) :
    secondWord (decodeWords fm w imm) = if hasSecondWord w then some imm else none := by
  induction w using word_groups with
  | opX op => rw [decodeWords_opX, secondWord_decodeOpX]
  | rRx op n0 h => rw [decodeWords_rRx fm op n0 imm h, secondWord_decodeRRx op n0 imm h]
  | rrIr op n1 n0 h =>
    rw [decodeWords_rrIr fm op n1 n0 imm h, secondWord_decodeRrIr,
      hasSecondWord_of_high_digit _ _ _ _ (.inr h)]
    rfl
  | rrrIrr op n2 n1 n0 h =>
    rw [decodeWords_rrrIrr fm op n2 n1 n0 imm h, secondWord_decodeRrrIrr,
      hasSecondWord_of_high_digit _ _ _ _ (.inl h)]
    rfl

/-! Decoding undoes the encoding of an instruction. -/

section Formats

variable (fm : FieldMap) (op a b c : Nibble) (imm : Word)

theorem decodeWords_encodeRr (h : op ≠ 0) :
    decodeWords fm (encodeRr fm op a b) imm =
      decodeRrIr fm op (fm.rr.place a b).2 (fm.rr.place a b).1 :=
  decodeWords_rrIr fm op _ _ imm h

theorem decodeWords_encodeRrr (h : op ≠ 0) :
    decodeWords fm (encodeRrr fm op a b c) imm =
      decodeRrrIrr fm op (fm.rrr.place a b c).2.2 (fm.rrr.place a b c).2.1 (fm.rrr.place a b c).1 :=
  decodeWords_rrrIrr fm op _ _ _ imm h

theorem decodeWords_encodeIrr (h : op ≠ 0) :
    decodeWords fm (encodeIrr fm op a b c) imm =
      decodeRrrIrr fm op (fm.irr.place a b c).2.2 (fm.irr.place a b c).2.1 (fm.irr.place a b c).1 :=
  decodeWords_rrrIrr fm op _ _ _ imm h

end Formats

/-- Decoding the first word undoes encoding it, the second word standing where there is one (R90). -/
theorem decodeWords_encodeFirst (fm : FieldMap) (i : Instr) :
    decodeWords fm (encodeFirst fm i) ((secondWord i).getD 0) = i := by
  cases i
  case halt | b | beq | bne | blt | ble | bge | bgt | bltu | bleu | bgeu | bgtu | call | ret | regs |
      dump =>
    exact decodeWords_opX fm _ _
  case li | lb | lw | stb | stw | not | neg | abs | ext | push | pop | inp | out | jump | exec =>
    exact decodeWords_rRx fm _ _ _ (by decide)
  case mov | cmp =>
    refine (decodeWords_encodeRr fm _ _ _ _ (by decide)).trans ?_
    simp [decodeRrIr]
  case ldq | cmpq | addq | subq | mulq | divq | modq | andq | orq | xorq | salq | sarq | slrq =>
    exact decodeWords_rrIr fm _ _ _ _ (by decide)
  case lbx | lwx | stbx | stwx =>
    refine (decodeWords_encodeIrr fm _ _ _ _ _ (by decide)).trans ?_
    simp [decodeRrrIrr]
  case add | sub | mul | div | mod | and | or | xor | sal | sar | slr =>
    refine (decodeWords_encodeRrr fm _ _ _ _ _ (by decide)).trans ?_
    simp [decodeRrrIrr]

/-- A first word asks for a second exactly where the instruction it encodes has one (R81). -/
theorem hasSecondWord_encodeFirst (fm : FieldMap) (i : Instr) :
    hasSecondWord (encodeFirst fm i) = (secondWord i).isSome := by
  have h := secondWord_decodeWords fm (encodeFirst fm i) ((secondWord i).getD 0)
  rw [decodeWords_encodeFirst] at h
  rw [h]
  cases hasSecondWord (encodeFirst fm i) <;> rfl

/-! The decoder on byte strings. -/

theorem decode_of_not_hasSecondWord (fm : FieldMap) (b0 b1 : Byte) (rest : List Byte)
    (h : hasSecondWord (joinBytes b0 b1) = false) :
    decode fm (b0 :: b1 :: rest) = .ok (decodeWords fm (joinBytes b0 b1) 0, rest) := by
  simp [decode, h]

theorem decode_of_hasSecondWord (fm : FieldMap) (b0 b1 b2 b3 : Byte) (rest : List Byte)
    (h : hasSecondWord (joinBytes b0 b1) = true) :
    decode fm (b0 :: b1 :: b2 :: b3 :: rest) =
      .ok (decodeWords fm (joinBytes b0 b1) (joinBytes b2 b3), rest) := by
  simp [decode, h]

/-- The decoder accepts two bytes whose word is an instruction alone, and four whose first word asks for a
second; nothing else. -/
theorem decode_eq_ok_cases {fm : FieldMap} {bytes rest : List Byte} {i : Instr}
    (h : decode fm bytes = .ok (i, rest)) :
    (∃ b0 b1, bytes = b0 :: b1 :: rest ∧ hasSecondWord (joinBytes b0 b1) = false ∧
      i = decodeWords fm (joinBytes b0 b1) 0) ∨
    (∃ b0 b1 b2 b3, bytes = b0 :: b1 :: b2 :: b3 :: rest ∧ hasSecondWord (joinBytes b0 b1) = true ∧
      i = decodeWords fm (joinBytes b0 b1) (joinBytes b2 b3)) := by
  match bytes with
  | [] | [_] => cases h
  | b0 :: b1 :: tail =>
    cases hw : hasSecondWord (joinBytes b0 b1) with
    | false =>
      rw [decode_of_not_hasSecondWord fm b0 b1 tail hw] at h
      cases h
      exact .inl ⟨b0, b1, rfl, hw, rfl⟩
    | true =>
      match tail with
      | [] | [_] => simp [decode, hw] at h
      | b2 :: b3 :: tail' =>
        rw [decode_of_hasSecondWord fm b0 b1 b2 b3 tail' hw] at h
        cases h
        exact .inr ⟨b0, b1, b2, b3, rfl, hw, rfl⟩

/-- Settles O1: the bytes of the words join to the words again, and the first word alone says whether the
second is read. -/
theorem decodeOfEncodeGivesInstruction : Obligations.DecodeOfEncodeGivesInstruction := by
  unfold Obligations.DecodeOfEncodeGivesInstruction
  intro fm i rest
  have asks := hasSecondWord_encodeFirst fm i
  have back := decodeWords_encodeFirst fm i
  cases hs : secondWord i with
  | none =>
    rw [hs, ← joinBytes_low_high (encodeFirst fm i)] at asks back
    simp only [encode, hs, Option.toList, wordBytes, List.cons_append, List.nil_append]
    rw [decode_of_not_hasSecondWord fm _ _ _ asks]
    exact congrArg (fun j => Except.ok (j, rest)) back
  | some imm =>
    rw [hs, ← joinBytes_low_high (encodeFirst fm i)] at asks back
    simp only [encode, hs, Option.toList, wordBytes, List.cons_append, List.nil_append]
    rw [decode_of_hasSecondWord fm _ _ _ _ _ asks, joinBytes_low_high imm]
    exact congrArg (fun j => Except.ok (j, rest)) back

/-- Settles O2: re-encoding the decoded words gives the words, and each word splits into the bytes it was
joined from. -/
theorem encodeOfDecodeGivesBytes : Obligations.EncodeOfDecodeGivesBytes := by
  unfold Obligations.EncodeOfDecodeGivesBytes
  intro fm bytes rest i h
  obtain ⟨b0, b1, rfl, hw, rfl⟩ | ⟨b0, b1, b2, b3, rfl, hw, rfl⟩ := decode_eq_ok_cases h
  · simp [encode, encodeFirst_decodeWords, secondWord_decodeWords, hw, wordBytes]
  · simp [encode, encodeFirst_decodeWords, secondWord_decodeWords, hw, wordBytes]

/-- An instruction is four bytes long with a second word and two without (R80, R82, R83). -/
theorem length_eq_ite_secondWord (i : Instr) :
    i.length = if (secondWord i).isSome then 4 else 2 := by
  cases i <;> rfl

theorem length_decodeWords (fm : FieldMap) (w imm : Word) :
    (decodeWords fm w imm).length = if hasSecondWord w then 4 else 2 := by
  rw [length_eq_ite_secondWord, secondWord_decodeWords]
  cases hasSecondWord w <;> rfl

/-- Settles O3: the first word says which of the two lengths it is. -/
theorem everyFourBytesDecode : Obligations.EveryFourBytesDecode := by
  unfold Obligations.EveryFourBytesDecode
  intro fm b0 b1 b2 b3 rest
  cases hw : hasSecondWord (joinBytes b0 b1) with
  | true =>
    exact .inl ⟨_, decode_of_hasSecondWord fm b0 b1 b2 b3 rest hw, by rw [length_decodeWords, hw]; rfl⟩
  | false =>
    exact .inr ⟨_, decode_of_not_hasSecondWord fm b0 b1 _ hw, by rw [length_decodeWords, hw]; rfl⟩

/-! The test of the first word in arithmetic. -/

theorem nibble_toNat (w : Word) (k : Nat) : (nibble w k).toNat = w.toNat / 2 ^ (4 * k) % 16 := by
  simp [nibble, Nat.shiftRight_eq_div_pow]

theorem nibble_eq_zero_iff (w : Word) (k : Nat) :
    nibble w k = 0 ↔ w.toNat / 2 ^ (4 * k) % 16 = 0 := by
  rw [← BitVec.toNat_inj, nibble_toNat]
  rfl

/-- The two ranges of R81, on the number of the word. -/
theorem hasSecondWord_iff (w : Word) :
    hasSecondWord w = true ↔
      (w.toNat / 16 = 0 ∧ 1 ≤ w.toNat % 16 ∧ w.toNat % 16 ≤ 12) ∨
        (w.toNat / 256 = 0 ∧ 1 ≤ w.toNat / 16 % 16 ∧ w.toNat / 16 % 16 ≤ 5) := by
  have hw := w.isLt
  simp only [hasSecondWord, Bool.and_eq_true, beq_iff_eq, nibble_eq_zero_iff, nibble_toNat]
  split <;> simp only [decide_eq_true_eq, Bool.and_eq_true] <;> omega

/-- Settles O4: a decoded instruction is as long as its first word's test says. -/
theorem lengthFromFirstWord : Obligations.LengthFromFirstWord := by
  unfold Obligations.LengthFromFirstWord
  intro fm w imm
  rw [length_decodeWords]
  exact if_congr (hasSecondWord_iff w) rfl rfl

/-- Settles O5, by running the decoder on the ten words. -/
theorem exampleWordsDecode : Obligations.ExampleWordsDecode := by
  unfold Obligations.ExampleWordsDecode
  decide

end Sys2Proof

namespace Sys2Proof.Machine

/-! The arms of `exec` not named above, one equation for each (R10). -/

section Arms

variable (s : State) (r r1 r2 rs rt rx : Reg) (imm : Word) (v : Nibble)

theorem exec_lb : exec (.lb r imm) s = .next (s.setReg r (zextByte (s.readByte imm))) := rfl

theorem exec_lbx :
    exec (.lbx r rx v) s = s.unlessWrap 2 (s.indexedWraps rx v)
      (s.setReg r (zextByte (s.readByte (s.indexed rx v)))) := rfl

theorem exec_lw :
    exec (.lw r imm) s = s.unlessWrap 4 (wordWraps imm) (s.setReg r (s.readWord imm)) := rfl

theorem exec_lwx :
    exec (.lwx r rx v) s = s.unlessWrap 2 (s.indexedWraps rx v || wordWraps (s.indexed rx v))
      (s.setReg r (s.readWord (s.indexed rx v))) := rfl

theorem exec_stb : exec (.stb r imm) s = .next (s.writeByte imm (lowByte (s.reg r))) := rfl

theorem exec_stbx :
    exec (.stbx r rx v) s = s.unlessWrap 2 (s.indexedWraps rx v)
      (s.writeByte (s.indexed rx v) (lowByte (s.reg r))) := rfl

theorem exec_stw :
    exec (.stw r imm) s = s.unlessWrap 4 (wordWraps imm) (s.writeWord imm (s.reg r)) := rfl

theorem exec_stwx :
    exec (.stwx r rx v) s = s.unlessWrap 2 (s.indexedWraps rx v || wordWraps (s.indexed rx v))
      (s.writeWord (s.indexed rx v) (s.reg r)) := rfl

theorem exec_push : exec (.push r) s = s.unlessWrap 2 s.pushWraps (s.push (s.reg r)) := rfl

theorem exec_pop (h : r ≠ SP) :
    exec (.pop r) s = s.unlessWrap 2 s.popWraps (s.popped.setReg r s.popValue) :=
  congrArg (s.unlessWrap 2 s.popWraps) (if_neg h)

theorem exec_pop_sp : exec (.pop SP) s = s.unlessWrap 2 s.popWraps (s.setRegFree SP) := rfl

theorem exec_inp_next (b : Byte) (h : s.stdin[s.stdinPos]? = some b) :
    exec (.inp r) s =
      .next (State.setReg { s with stdinPos := s.stdinPos + 1 } r (zextByte b)) := by
  simp only [exec, execIn, (s.nextInput_eq_some b _).2 ⟨h, rfl⟩]

theorem exec_inp_exhausted (h : s.stdin.length ≤ s.stdinPos) (eof : s.config.inAtEof = .fault) :
    exec (.inp r) s = .fault (.inputExhausted (s.pc - 2) s) := by
  simp only [exec, execIn, s.nextInput_eq_none.2 h, eof]
  rfl

theorem exec_inp_blocked (h : s.stdin.length ≤ s.stdinPos) (eof : s.config.inAtEof = .block) :
    exec (.inp r) s = .fault (.inputBlocked (s.pc - 2) s) := by
  simp only [exec, execIn, s.nextInput_eq_none.2 h, eof]
  rfl

theorem exec_out : exec (.out r) s = .next (s.putByte (lowByte (s.reg r))) := rfl

theorem exec_mov_second (h : s.config.movDirection = .secondIsDestination) :
    exec (.mov rs rt) s = .next (s.setReg rt (s.reg rs)) := by
  simp only [exec, execMov, h]

theorem exec_mov_first (h : s.config.movDirection = .firstIsDestination) :
    exec (.mov rs rt) s = .next (s.setReg rs (s.reg rt)) := by
  simp only [exec, execMov, h]

theorem exec_neg : exec (.neg r) s = .next (s.setResult r (negOp s.config.carryNeg (s.reg r))) := rfl

theorem exec_abs :
    exec (.abs r) s =
      .next (s.setResult r (absOp s.config.absModel s.config.carryNeg (s.reg r))) := rfl

theorem exec_cmp : exec (.cmp r1 r2) s = .next (s.setFlags (subOp (s.reg r1) (s.reg r2))) := rfl

theorem exec_cmpq : exec (.cmpq r v) s = .next (s.setFlags (subOp (s.reg r) (zextNibble v))) := rfl

theorem exec_add :
    exec (.add r1 r2 rt) s = .next (s.setResult rt (addOp (s.reg r1) (s.reg r2))) := rfl

theorem exec_addq :
    exec (.addq r v) s = .next (s.setResult r (addOp (s.reg r) (zextNibble v))) := rfl

theorem exec_sub :
    exec (.sub r1 r2 rt) s = .next (s.setResult rt (subOp (s.reg r1) (s.reg r2))) := rfl

theorem exec_subq :
    exec (.subq r v) s = .next (s.setResult r (subOp (s.reg r) (zextNibble v))) := rfl

theorem exec_mul :
    exec (.mul r1 r2 rt) s =
      .next (s.setResult rt (mulOp s.config.carryMul (s.reg r1) (s.reg r2))) := rfl

theorem exec_mulq :
    exec (.mulq r v) s =
      .next (s.setResult r (mulOp s.config.carryMul (s.reg r) (zextNibble v))) := rfl

theorem exec_div : exec (.div r1 r2 rt) s = s.divide Prod.fst rt (s.reg r1) (s.reg r2) := rfl

theorem exec_mod : exec (.mod r1 r2 rt) s = s.divide Prod.snd rt (s.reg r1) (s.reg r2) := rfl

theorem exec_divq : exec (.divq r v) s = s.divide Prod.fst r (s.reg r) (zextNibble v) := rfl

theorem exec_modq : exec (.modq r v) s = s.divide Prod.snd r (s.reg r) (zextNibble v) := rfl

theorem exec_sal :
    exec (.sal r1 r2 rt) s = .next (s.setResult rt
      (shlOp s.config.carrySal (s.reg r1) (shiftCount s.config.shiftCountMode (s.reg r2)))) := rfl

theorem exec_salq :
    exec (.salq r v) s = .next (s.setResult r (shlOp s.config.carrySal (s.reg r) v.toNat)) := rfl

theorem exec_sar :
    exec (.sar r1 r2 rt) s = .next (s.setResult rt
      (sarOp (s.reg r1) (shiftCount s.config.shiftCountMode (s.reg r2)))) := rfl

theorem exec_sarq : exec (.sarq r v) s = .next (s.setResult r (sarOp (s.reg r) v.toNat)) := rfl

theorem exec_slr :
    exec (.slr r1 r2 rt) s = .next (s.setResult rt
      (slrOp (s.reg r1) (shiftCount s.config.shiftCountMode (s.reg r2)))) := rfl

theorem exec_slrq : exec (.slrq r v) s = .next (s.setResult r (slrOp (s.reg r) v.toNat)) := rfl

theorem exec_call :
    exec (.call imm) s = s.unlessWrap 4 s.pushWraps ((s.push s.pc).setPc imm) := rfl

theorem exec_exec (h : r ≠ SP) :
    exec (.exec r) s = s.unlessWrap 2 s.pushWraps ((s.push s.pc).setPc (s.reg r)) :=
  congrArg (s.unlessWrap 2 s.pushWraps) (if_neg h)

theorem exec_exec_sp :
    exec (.exec SP) s = s.unlessWrap 2 s.pushWraps (s.push s.pc).setPcFree := rfl

theorem exec_ret : exec .ret s = s.unlessWrap 2 s.popWraps (s.popped.setPc s.popValue) := rfl

theorem exec_regs : exec .regs s = .next s.display := rfl

theorem exec_dump : exec .dump s = .next s.display := rfl

end Arms

/-! Frames of the operations (R43). -/

section Frames

variable {s t u : State} {regs : List Reg} {addresses : List Word}

theorem SameRegs.of_nil (h : SameRegs s t []) : SameRegs s t regs := fun r _ =>
  h r List.not_mem_nil

theorem SameMem.of_nil (h : SameMem s t []) : SameMem s t addresses := fun a _ =>
  h a List.not_mem_nil

theorem SameRegs.trans (h : SameRegs s t regs) (same : SameRegs t u []) : SameRegs s u regs :=
  fun r hr => (same r List.not_mem_nil).trans (h r hr)

theorem SameMem.trans (h : SameMem s t addresses) (same : SameMem t u []) :
    SameMem s u addresses :=
  fun a ha => (same a List.not_mem_nil).trans (h a ha)

variable (s) (a v : Word) (b : Byte) (r : Reg)

theorem sameRegs_setReg : SameRegs s (s.setReg r v) [r] := (onlyReg_setReg s r v).1

theorem sameRegs_setResult (x : AluResult) : SameRegs s (s.setResult r x) [r] :=
  (resultIn_setResult s r x).2.1

theorem sameRegs_push : SameRegs s (s.push v) [SP] := fun q hq => by
  rw [s.reg_push, if_neg (List.ne_of_not_mem_cons hq)]

theorem sameRegs_popped : SameRegs s s.popped [SP] := fun q hq => by
  rw [s.reg_popped, if_neg (List.ne_of_not_mem_cons hq)]

theorem sameRegs_popped_setReg : SameRegs s (s.popped.setReg r v) [r, SP] := fun q hq => by
  obtain ⟨ne_r, hq⟩ := List.ne_and_not_mem_of_not_mem_cons hq
  rw [s.popped.reg_setReg_other r q v ne_r, sameRegs_popped s q hq]

theorem sameRegs_setRegFree : SameRegs s (s.setRegFree r) [r] := fun q hq => by
  rw [s.reg_setRegFree, if_neg (List.ne_of_not_mem_cons hq)]

theorem sameMem_writeByte : SameMem s (s.writeByte a b) [a] := fun c hc => by
  rw [s.readByte_writeByte, if_neg (List.ne_of_not_mem_cons hc)]

theorem sameMem_writeWord : SameMem s (s.writeWord a v) [a, a + 1] := fun c hc => by
  obtain ⟨ne_low, hc⟩ := List.ne_and_not_mem_of_not_mem_cons hc
  rw [s.readByte_writeWord, if_neg ne_low, if_neg (List.ne_of_not_mem_cons hc)]

theorem sameMem_push : SameMem s (s.push v) [s.pushTarget, s.pushTarget + 1] := fun c hc =>
  (s.push_readByte v c).trans (sameMem_writeWord s s.pushTarget v c hc)

end Frames

end Sys2Proof.Machine

namespace Sys2Proof.Machine

/-- The shapes of the state an instruction leaves when it goes on, each with what the tables of R23, R32
and R59 say of the instructions that leave it. -/
inductive Effect (s : State) : Instr → State → Prop
  | load {i : Instr} (r : Reg) (v : Word) (dest : destinations s.config i = [r])
      (quiet : writesFlags i = false) : Effect s i (s.setReg r v)
  | result {i : Instr} (r : Reg) (x : AluResult) (dest : destinations s.config i = [r])
      (flags : writesFlags i = true) : Effect s i (s.setResult r x)
  | compare {i : Instr} (x : AluResult) (dest : destinations s.config i = [])
      (flags : writesFlags i = true) : Effect s i (s.setFlags x)
  | storeByte {i : Instr} (a : Word) (b : Byte) (stored : storedTo s i = [a])
      (quiet : writesFlags i = false) : Effect s i (s.writeByte a b)
  | storeWord {i : Instr} (a v : Word) (stored : storedTo s i = [a, a + 1])
      (quiet : writesFlags i = false) : Effect s i (s.writeWord a v)
  | push (r : Reg) (v : Word) : Effect s (.push r) (s.push v)
  | pop (r : Reg) (v : Word) : Effect s (.pop r) (s.popped.setReg r v)
  | popSp : Effect s (.pop SP) (s.setRegFree SP)
  | input (r : Reg) (v : Word) (more : s.stdinPos < s.stdin.length) :
      Effect s (.inp r) (State.setReg { s with stdinPos := s.stdinPos + 1 } r v)
  | output (r : Reg) (b : Byte) : Effect s (.out r) (s.putByte b)
  | branch {i : Instr} (taken : Bool) (target : Word) (form : i.format = .x ∨ ∃ r, i = .jump r)
      (quiet : writesFlags i = false) : Effect s i (s.branchIf taken target)
  | call (imm : Word) : Effect s (.call imm) ((s.push s.pc).setPc imm)
  | callReg (r : Reg) : Effect s (.exec r) ((s.push s.pc).setPc (s.reg r))
  | callSp : Effect s (.exec SP) (s.push s.pc).setPcFree
  | ret (target : Word) : Effect s .ret (s.popped.setPc target)
  | display {i : Instr} (form : i = .regs ∨ i = .dump) : Effect s i s.display
  | halt : Effect s .halt
      { s with pc := 0#16, flagZ := false, flagN := false, flagC := false, halted := true }

/-- What an instruction can answer: go on, go on unless an address wrapped, divide, or stop at the end of
the input. -/
inductive Answer (s : State) : Instr → Host.Outcome State Fault Refusal → Prop
  | goes {i : Instr} {t : State} (effect : Effect s i t) : Answer s i (.next t)
  | unlessWrap {i : Instr} {t : State} (bytes : Nat) (wraps : Bool) (effect : Effect s i t) :
      Answer s i (s.unlessWrap bytes wraps t)
  | divide {i : Instr} (pick : Word × Word → Word) (r1 r2 rt : Reg)
      (form : i = .div r1 r2 rt ∨ i = .mod r1 r2 rt) :
      Answer s i (s.divide pick rt (s.reg r1) (s.reg r2))
  | divideQuick {i : Instr} (pick : Word × Word → Word) (r : Reg) (v : Nibble)
      (form : i = .divq r v ∨ i = .modq r v) :
      Answer s i (s.divide pick r (s.reg r) (zextNibble v))
  | inputEnd (r : Reg) (f : Fault) (ended : s.stdin.length ≤ s.stdinPos)
      (which : s.config.inAtEof = .fault → f = .inputExhausted (s.pc - 2) s) :
      Answer s (.inp r) (.fault f)

theorem answer_mov (s : State) (rs rt : Reg) : Answer s (.mov rs rt) (exec (.mov rs rt) s) := by
  cases h : s.config.movDirection with
  | secondIsDestination =>
    rw [exec_mov_second s rs rt h]
    exact .goes (.load rt _ (by simp only [destinations, h]) rfl)
  | firstIsDestination =>
    rw [exec_mov_first s rs rt h]
    exact .goes (.load rs _ (by simp only [destinations, h]) rfl)

theorem answer_inp (s : State) (r : Reg) : Answer s (.inp r) (exec (.inp r) s) := by
  by_cases more : s.stdinPos < s.stdin.length
  · rw [exec_inp_next s r _ (List.getElem?_eq_getElem more)]
    exact .goes (.input r _ more)
  · have ended : s.stdin.length ≤ s.stdinPos := Nat.le_of_not_lt more
    cases eof : s.config.inAtEof with
    | fault =>
      rw [exec_inp_exhausted s r ended eof]
      exact .inputEnd r _ ended fun _ => rfl
    | block =>
      rw [exec_inp_blocked s r ended eof]
      exact .inputEnd r _ ended fun h => by rw [eof] at h; cases h

theorem answer_pop (s : State) (r : Reg) : Answer s (.pop r) (exec (.pop r) s) := by
  by_cases h : r = SP
  · subst h
    exact .unlessWrap 2 s.popWraps .popSp
  · rw [exec_pop s r h]
    exact .unlessWrap 2 _ (.pop r _)

theorem answer_exec (s : State) (r : Reg) : Answer s (.exec r) (exec (.exec r) s) := by
  by_cases h : r = SP
  · subst h
    exact .unlessWrap 2 s.pushWraps .callSp
  · rw [exec_exec s r h]
    exact .unlessWrap 2 _ (.callReg r)

/-- Every instruction's answer, by the arms of `exec`. -/
theorem answer_of_exec (i : Instr) (s : State) : Answer s i (exec i s) := by
  cases i with
  | ldq | li | lb => exact .goes (.load _ _ rfl rfl)
  | lw => exact .unlessWrap 4 _ (.load _ _ rfl rfl)
  | lbx | lwx => exact .unlessWrap 2 _ (.load _ _ rfl rfl)
  | mov rs rt => exact answer_mov s rs rt
  | stb => exact .goes (.storeByte _ _ rfl rfl)
  | stbx => exact .unlessWrap 2 _ (.storeByte _ _ rfl rfl)
  | stw => exact .unlessWrap 4 _ (.storeWord _ _ rfl rfl)
  | stwx => exact .unlessWrap 2 _ (.storeWord _ _ rfl rfl)
  | push r => exact .unlessWrap 2 _ (.push r _)
  | pop r => exact answer_pop s r
  | inp r => exact answer_inp s r
  | out r => exact .goes (.output r _)
  | neg | abs | ext | not | add | addq | sub | subq | mul | mulq | and | andq | or | orq | xor | xorq |
      sal | salq | sar | sarq | slr | slrq => exact .goes (.result _ _ rfl rfl)
  | cmp | cmpq => exact .goes (.compare _ rfl rfl)
  | div r1 r2 rt => exact .divide _ r1 r2 rt (.inl rfl)
  | mod r1 r2 rt => exact .divide _ r1 r2 rt (.inr rfl)
  | divq r v => exact .divideQuick _ r v (.inl rfl)
  | modq r v => exact .divideQuick _ r v (.inr rfl)
  | b imm => exact .goes (.branch true imm (.inl rfl) rfl)
  | jump r => exact .goes (.branch true (s.reg r) (.inr ⟨r, rfl⟩) rfl)
  | beq | bne | blt | ble | bge | bgt | bltu | bleu | bgeu | bgtu =>
    exact .goes (.branch _ _ (.inl rfl) rfl)
  | call imm => exact .unlessWrap 4 _ (.call imm)
  | exec r => exact answer_exec s r
  | ret => exact .unlessWrap 2 _ (.ret _)
  | regs => exact .goes (.display (.inl rfl))
  | dump => exact .goes (.display (.inr rfl))
  | halt => exact .goes .halt

theorem effect_of_divide {s t : State} {i : Instr} {pick : Word × Word → Word} {r : Reg} {a b : Word}
    (dest : destinations s.config i = [r]) (flags : writesFlags i = true)
    (h : s.divide pick r a b = .next t) : Effect s i t := by
  obtain ⟨-, -, rfl⟩ := (s.divide_eq_next pick r a b t).1 h
  exact .result r _ dest flags

/-- An instruction that goes on leaves one of the shapes of `Effect`. -/
theorem effect_of_exec {i : Instr} {s t : State} (run : exec i s = .next t) : Effect s i t := by
  have answer := answer_of_exec i s
  generalize exec i s = o at answer run
  cases answer with
  | goes effect =>
    cases run
    exact effect
  | unlessWrap bytes wraps effect =>
    obtain ⟨-, rfl⟩ := (s.unlessWrap_eq_next _ _ _ _).1 run
    exact effect
  | divide pick r1 r2 rt form =>
    obtain rfl | rfl := form
    · exact effect_of_divide rfl rfl run
    · exact effect_of_divide rfl rfl run
  | divideQuick pick r v form =>
    obtain rfl | rfl := form
    · exact effect_of_divide rfl rfl run
    · exact effect_of_divide rfl rfl run
  | inputEnd => cases run

end Sys2Proof.Machine

namespace Sys2Proof.Machine

/-! What each shape of next state keeps: the registers, the flags, memory, the streams, pc. -/

section EffectFrames

variable {s t : State} {i : Instr}

theorem Effect.sameRegs (effect : Effect s i t) : SameRegs s t (destinations s.config i) := by
  cases effect with
  | load r v dest => exact dest ▸ sameRegs_setReg s v r
  | result r x dest => exact dest ▸ sameRegs_setResult s r x
  | compare x => exact (sameRegs_of_regs_eq (s.setFlags_regs x)).of_nil
  | storeByte a b => exact (sameRegs_of_regs_eq (s.writeByte_regs a b)).of_nil
  | storeWord a v => exact (sameRegs_of_regs_eq (s.writeWord_regs a v)).of_nil
  | push r v => exact sameRegs_push s v
  | pop r v => exact sameRegs_popped_setReg s v r
  | popSp => exact fun q hq => sameRegs_setRegFree s SP q (List.not_mem_of_not_mem_cons hq)
  | input r v => exact sameRegs_setReg _ v r
  | output r b => exact sameRegs_of_regs_eq (s.putByte_regs b)
  | branch c target => exact (sameRegs_of_regs_eq (s.branchIf_regs c target)).of_nil
  | call imm => exact (sameRegs_push s s.pc).trans (sameRegs_of_regs_eq rfl)
  | callReg r => exact (sameRegs_push s s.pc).trans (sameRegs_of_regs_eq rfl)
  | callSp => exact (sameRegs_push s s.pc).trans (sameRegs_of_regs_eq rfl)
  | ret target => exact (sameRegs_popped s).trans (sameRegs_of_regs_eq rfl)
  | display => exact (sameRegs_of_regs_eq s.display_regs).of_nil
  | halt => exact sameRegs_of_regs_eq rfl

theorem Effect.sameFlags (effect : Effect s i t) (quiet : writesFlags i = false) : SameFlags s t := by
  cases effect with
  | result r x dest flags => rw [quiet] at flags; cases flags
  | compare x dest flags => rw [quiet] at flags; cases flags
  | halt => cases quiet
  | _ => exact ⟨by simp, by simp, by simp⟩

theorem Effect.halted_eq (effect : Effect s i t) (goes : i ≠ .halt) : t.halted = s.halted := by
  cases effect with
  | halt => exact absurd rfl goes
  | _ => simp

/-- A register result sets Z and N from itself; the comparisons have no destination. -/
theorem Effect.flagsOf {r : Reg} (effect : Effect s i t) (flags : writesFlags i = true)
    (goes : i ≠ .halt) (dest : r ∈ destinations s.config i) : FlagsOf t (t.reg r) := by
  cases effect with
  | result q x only =>
    obtain rfl : r = q := List.mem_singleton.1 (only ▸ dest)
    exact (resultIn_setResult s r x).1
  | compare x none => rw [none] at dest; cases dest
  | halt => exact absurd rfl goes
  | load r v _ quiet => rw [flags] at quiet; cases quiet
  | storeByte a b _ quiet => rw [flags] at quiet; cases quiet
  | storeWord a v _ quiet => rw [flags] at quiet; cases quiet
  | branch c target _ quiet => rw [flags] at quiet; cases quiet
  | display form => obtain rfl | rfl := form <;> cases flags
  | _ => cases flags

theorem Effect.sameMem (effect : Effect s i t) : SameMem s t (storedTo s i) := by
  cases effect with
  | storeByte a b stored => exact stored ▸ sameMem_writeByte s a b
  | storeWord a v stored => exact stored ▸ sameMem_writeWord s a v
  | push r v => exact sameMem_push s v
  | call imm => exact (sameMem_push s s.pc).trans (sameMem_of_mem_eq rfl)
  | callReg r => exact (sameMem_push s s.pc).trans (sameMem_of_mem_eq rfl)
  | callSp => exact (sameMem_push s s.pc).trans (sameMem_of_mem_eq rfl)
  | _ => exact (sameMem_of_mem_eq (by simp)).of_nil

theorem Effect.stdin_eq (effect : Effect s i t) : t.stdin = s.stdin := by
  cases effect <;> simp

theorem Effect.config_eq (effect : Effect s i t) : t.config = s.config := by
  cases effect <;> simp

theorem Effect.stdinPos_eq (effect : Effect s i t) (not_inp : ∀ r, i ≠ .inp r) :
    t.stdinPos = s.stdinPos := by
  cases effect with
  | input r => exact absurd rfl (not_inp r)
  | _ => simp

theorem Effect.stdout_eq (effect : Effect s i t) (not_out : ∀ r, i ≠ .out r) (not_regs : i ≠ .regs)
    (not_dump : i ≠ .dump) : t.stdout = s.stdout := by
  cases effect with
  | output r => exact absurd rfl (not_out r)
  | display form => exact absurd form (not_or_intro not_regs not_dump)
  | _ => simp

theorem Effect.stdout_extends (effect : Effect s i t) : ∃ text, t.stdout = s.stdout ++ text := by
  cases effect with
  | output r b => exact ⟨[b], rfl⟩
  | display => exact s.display_stdout
  | _ => exact ⟨[], by simp⟩

theorem Effect.pc_eq (effect : Effect s i t) (not_x : i.format ≠ .x) (not_jump : ∀ r, i ≠ .jump r)
    (not_exec : ∀ r, i ≠ .exec r) (not_ret : i ≠ .ret) (not_halt : i ≠ .halt) : t.pc = s.pc := by
  cases effect with
  | branch c target form =>
    obtain form | ⟨r, form⟩ := form
    · exact absurd form not_x
    · exact absurd form (not_jump r)
  | call imm => exact absurd rfl not_x
  | callReg r => exact absurd rfl (not_exec r)
  | callSp => exact absurd rfl (not_exec SP)
  | ret => exact absurd rfl not_ret
  | halt => exact absurd rfl not_halt
  | _ => simp

theorem Effect.wf_mem (effect : Effect s i t) (wf : Memory.wf s.mem = true) :
    Memory.wf t.mem = true := by
  cases effect with
  | storeByte a b => exact s.wf_writeByte a b wf
  | storeWord a v => exact s.wf_writeWord a v wf
  | push r v => exact s.wf_push v wf
  | call imm => exact s.wf_push s.pc wf
  | callReg r => exact s.wf_push s.pc wf
  | callSp => exact s.wf_push s.pc wf
  | _ => simpa using wf

theorem Effect.stdinPos_le (effect : Effect s i t) (le : s.stdinPos ≤ s.stdin.length) :
    t.stdinPos ≤ t.stdin.length := by
  cases effect with
  | input r v more => exact more
  | _ => simpa using le

/-- No word is both 0 and negative (R28, R29). -/
theorem not_zero_and_negative (v : Word) : ¬ (decide (v = 0#16) = true ∧ v.msb = true) := by
  rintro ⟨zero, negative⟩
  rw [of_decide_eq_true zero] at negative
  cases negative

theorem Effect.not_flagZ_and_flagN (effect : Effect s i t)
    (exclusive : ¬ (s.flagZ = true ∧ s.flagN = true)) : ¬ (t.flagZ = true ∧ t.flagN = true) := by
  cases effect with
  | result r x => simpa only [State.setResult_flagZ, State.setResult_flagN] using
      not_zero_and_negative x.value
  | compare x => simpa only [State.setFlags_flagZ, State.setFlags_flagN] using
      not_zero_and_negative x.value
  | halt => simp
  | _ => simpa using exclusive

end EffectFrames

/-- IN goes on only where a byte is left, and takes that one (R37). -/
theorem stdinPos_of_exec_inp {s t : State} {r : Reg} (run : exec (.inp r) s = .next t) :
    t.stdinPos = s.stdinPos + 1 := by
  by_cases more : s.stdinPos < s.stdin.length
  · rw [exec_inp_next s r _ (List.getElem?_eq_getElem more)] at run
    cases run
    rfl
  · have ended : s.stdin.length ≤ s.stdinPos := Nat.le_of_not_lt more
    cases eof : s.config.inAtEof with
    | fault => rw [exec_inp_exhausted s r ended eof] at run; cases run
    | block => rw [exec_inp_blocked s r ended eof] at run; cases run

/-! The frames of the whole instruction set, each read off the shape of the next state. -/

/-- Settles O47: no shape of next state writes a register its table leaves out. -/
theorem onlyListedRegistersChange : Obligations.OnlyListedRegistersChange := by
  unfold Obligations.OnlyListedRegistersChange
  intro i s t run
  exact (effect_of_exec run).sameRegs

/-- Settles O48: the shapes that write flags are results, comparisons and HALT. -/
theorem onlyListedInstructionsWriteFlags : Obligations.OnlyListedInstructionsWriteFlags := by
  unfold Obligations.OnlyListedInstructionsWriteFlags
  intro i s t run
  exact ⟨(effect_of_exec run).sameFlags, (effect_of_exec run).halted_eq⟩

/-- Settles O49: of the shapes that write flags only a result has a destination. -/
theorem flagsFollowResult : Obligations.FlagsFollowResult := by
  unfold Obligations.FlagsFollowResult
  intro i s t r run flags goes dest
  exact (effect_of_exec run).flagsOf flags goes dest

/-- Settles O50: the shapes that store do so at the addresses of their table. -/
theorem onlyStoredBytesChange : Obligations.OnlyStoredBytesChange := by
  unfold Obligations.OnlyStoredBytesChange
  intro i s t run
  exact (effect_of_exec run).sameMem

/-- Settles O51: no shape writes the input or the configuration; what IN does to the read position is the
one clause that needs its arm of `exec`. -/
theorem streamsAndConfigurationFrame : Obligations.StreamsAndConfigurationFrame := by
  unfold Obligations.StreamsAndConfigurationFrame
  intro i s t run
  have effect := effect_of_exec run
  refine ⟨effect.stdin_eq, effect.config_eq, effect.stdinPos_eq, ?_, effect.stdout_eq,
    effect.stdout_extends⟩
  rintro ⟨r, rfl⟩
  exact stdinPos_of_exec_inp run

/-- Settles O52: the shapes that write pc are those of the branch family and HALT. -/
theorem onlyBranchesAndHaltMovePc : Obligations.OnlyBranchesAndHaltMovePc := by
  unfold Obligations.OnlyBranchesAndHaltMovePc
  intro i s t run
  exact (effect_of_exec run).pc_eq

/-- A division under `DIV_OVERFLOW` = wrap goes on, or its divisor is 0 (R158). -/
theorem divide_next_or_by_zero (s : State) (pick : Word × Word → Word) (r : Reg) (a b : Word)
    (wrap : s.config.divOverflow = .wrap) :
    (∃ t, s.divide pick r a b = .next t) ∨
      s.divide pick r a b = .fault (.divideByZero (s.pc - 2) s) ∧ b = 0#16 := by
  by_cases zero : b = 0#16
  · exact .inr ⟨(s.divide_eq_fault pick r a b _).2 (.inl ⟨zero, rfl⟩), zero⟩
  · exact .inl ⟨_, (s.divide_eq_next pick r a b _).2 ⟨zero, by simp [wrap], rfl⟩⟩

theorem zextNibble_eq_zero_iff (v : Nibble) : zextNibble v = 0#16 ↔ v = 0 := by
  rw [← BitVec.toNat_inj, ← BitVec.toNat_inj, zextNibble_toNat]
  rfl

/-- Settles O53: of the answers an instruction can give, `unlessWrap` goes on where addresses wrap, and a
division and an IN stop in the two ways listed. -/
theorem listedFaultsAreAll : Obligations.ListedFaultsAreAll := by
  unfold Obligations.ListedFaultsAreAll
  intro i s addrWrap divOverflow inAtEof
  have answer := answer_of_exec i s
  generalize exec i s = o at answer
  cases answer with
  | goes => exact .inl ⟨_, rfl⟩
  | unlessWrap bytes wraps => exact .inl ⟨_, s.unlessWrap_wrap bytes wraps _ addrWrap⟩
  | divide pick r1 r2 rt form =>
    obtain next | ⟨stop, zero⟩ := divide_next_or_by_zero s pick rt (s.reg r1) (s.reg r2) divOverflow
    · exact .inl next
    · exact .inr (.inl ⟨stop, .inl ⟨r1, r2, rt, form, zero⟩⟩)
  | divideQuick pick r v form =>
    obtain next | ⟨stop, zero⟩ :=
      divide_next_or_by_zero s pick r (s.reg r) (zextNibble v) divOverflow
    · exact .inl next
    · rw [zextNibble_eq_zero_iff] at zero
      subst zero
      exact .inr (.inl ⟨stop, .inr ⟨r, form⟩⟩)
  | inputEnd r f ended which =>
    exact .inr (.inr ⟨congrArg Host.Outcome.fault (which inAtEof), ended, r, rfl⟩)

/-! The invariant. -/

/-- Only HALT stops a running machine, and it clears pc and the flags (R230). -/
theorem Effect.clear_of_halted {s t : State} {i : Instr} (effect : Effect s i t)
    (running : s.halted = false) (halted : t.halted = true) :
    t.pc = 0#16 ∧ t.flagZ = false ∧ t.flagN = false ∧ t.flagC = false := by
  cases effect with
  | halt => exact ⟨rfl, rfl, rfl, rfl⟩
  | _ => simp [running] at halted

theorem Effect.inv {s t : State} {i : Instr} (effect : Effect s i t) (inv : s.Inv)
    (running : s.halted = false) : t.Inv := by
  obtain ⟨wf, le, exclusive, -⟩ := inv
  exact ⟨effect.wf_mem wf, effect.stdinPos_le le, effect.not_flagZ_and_flagN exclusive,
    effect.clear_of_halted running⟩

theorem fetched_inv {s : State} (inv : s.Inv) (running : s.halted = false) : s.fetched.Inv := by
  obtain ⟨wf, le, exclusive, -⟩ := inv
  exact ⟨wf, le, exclusive, fun halted => absurd (running.symm.trans halted) Bool.false_ne_true⟩

/-- Settles O57: a halted machine stays as it is, and a running one executes the fetched instruction. -/
theorem stepKeepsInvariant : Obligations.StepKeepsInvariant := by
  unfold Obligations.StepKeepsInvariant
  intro s t inv run
  obtain ⟨-, rfl⟩ | ⟨running, -, run⟩ := (step_eq_next s t).1 run
  · exact inv
  · exact (effect_of_exec run).inv (fetched_inv inv running) running

theorem start_inv {init : ResetState} {image : Memory} (config : Config) (input : List Byte)
    (wf : Memory.wf image = true) (exclusive : ¬ (init.flagZ = true ∧ init.flagN = true))
    (halted : init.halted = true → init.pc = 0#16 ∧ init.flagZ = false ∧ init.flagN = false ∧
      init.flagC = false) : (State.start config init image input).Inv :=
  ⟨wf, Nat.zero_le _, exclusive, halted⟩

theorem start_defaults_inv {image : Memory} (config : Config) (regs : Vector Word 16)
    (input : List Byte) (wf : Memory.wf image = true) :
    (State.start config (ResetState.defaults regs) image input).Inv :=
  start_inv config input wf (by simp) (by simp)

/-- Settles O58: a start state has the image as memory, reads from position 0, and takes its flags and H
from `RESET_STATE`. -/
theorem startStateHasInvariant : Obligations.StartStateHasInvariant := by
  unfold Obligations.StartStateHasInvariant
  exact ⟨start_defaults_inv _ _ _ State.reset_mem_wf, fun config image input wf =>
    ⟨fun regs => start_defaults_inv config regs input wf, fun init => start_inv config input wf⟩⟩

theorem reg_start_defaults (config : Config) (regs : Vector Word 16) (image : Memory)
    (input : List Byte) (r : Reg) :
    (State.start config (ResetState.defaults regs) image input).reg r =
      if r = SP then 0xFFFF#16 else regs[r.toNat]'r.isLt := by
  rw [State.reg_start, ResetState.defaults_reg]

/-- Settles O59: the reset machine is a start state under the default `RESET_STATE` too. -/
theorem startStateValues : Obligations.StartStateValues := by
  unfold Obligations.StartStateValues
  constructor
  case left =>
    rintro config init image input s rfl
    exact ⟨rfl, rfl, rfl, rfl, rfl, fun r => State.reg_start config init image input r, rfl, rfl, rfl,
      rfl, rfl⟩
  case right =>
    intro config regs image input s h
    have others (start : s = State.start config (ResetState.defaults regs) image input) (r : Reg)
        (ne : r ≠ SP) : s.reg r = regs[r.toNat]'r.isLt := by
      rw [start, reg_start_defaults, if_neg ne]
    obtain ⟨c, q, m, l, rfl⟩ : ∃ c q m l, s = State.start c (ResetState.defaults q) m l := by
      obtain h | h := h
      · exact ⟨_, _, _, _, h⟩
      · exact ⟨_, _, _, _, h⟩
    have sp := reg_start_defaults c q m l SP
    exact ⟨rfl, rfl, rfl, rfl, rfl, sp, rfl, rfl, others⟩

/-! Runs and fetches. -/

/-- Settles O44, by induction on the steps: each answers the same machine. -/
theorem haltedMachineStaysAsItIs : Obligations.HaltedMachineStaysAsItIs := by
  unfold Obligations.HaltedMachineStaysAsItIs
  intro s k halted
  have stays : step s = .next s := (step_eq_next s s).2 (.inl ⟨halted, rfl⟩)
  induction k with
  | zero => exact run_zero s
  | succ k ih => exact (run_succ_of_next s k s stays).trans ih

/-- A running machine whose fetch may use its addresses executes the fetched instruction (R10). -/
theorem step_of_usable {s : State} (running : s.halted = false)
    (usable : Usable s (s.pc.toNat + s.fetch.length < 65536)) : step s = exec s.fetch s.fetched := by
  simp only [step, State.suspended_eq, running, s.fetchFault_eq_none.2 usable, Bool.false_eq_true,
    if_false]

/-- Settles O45: the word 0 is HALT whatever follows it, so one step suffices. -/
theorem zeroedMemoryHalts : Obligations.ZeroedMemoryHalts := by
  unfold Obligations.ZeroedMemoryHalts
  intro s running low high usable
  have fetch : s.fetch = .halt := by
    rw [State.fetch, s.readWord_eq s.pc, low, high]
    exact decodeWords_opX _ 0 _
  have halts := step_of_usable running (by rw [fetch]; exact usable)
  rw [fetch, exec_halt] at halts
  exact ⟨1, _, (run_succ_of_next s 0 _ halts).trans (run_zero _), rfl⟩

/-- A word that asks for no second one decodes alike whatever follows it (R81). -/
theorem decodeWords_of_not_hasSecondWord (fm : FieldMap) {w : Word} (imm : Word)
    (h : hasSecondWord w = false) : decodeWords fm w imm = decodeWords fm w 0 := by
  have back := decodeWords_encodeFirst fm (decodeWords fm w imm)
  rw [encodeFirst_decodeWords, secondWord_decodeWords, h] at back
  exact back.symm

/-- The instruction fetched is the one the bytes at pc decode to (R10, R57). -/
theorem fetch_eq_of_decode {s : State} {i : Instr} {rest : List Byte}
    (h : decode s.config.fieldMap s.fetchBytes = .ok (i, rest)) : s.fetch = i := by
  have next_word : s.readWord (s.pc + 2) =
      joinBytes (s.readByte (s.pc + 2)) (s.readByte (s.pc + 3)) := by
    rw [s.readWord_eq, BitVec.add_assoc]
    rfl
  cases hw : hasSecondWord (s.readWord s.pc) with
  | false =>
    rw [State.fetchBytes, decode_of_not_hasSecondWord _ _ _ _ hw] at h
    cases h
    exact decodeWords_of_not_hasSecondWord _ _ hw
  | true =>
    rw [State.fetchBytes, decode_of_hasSecondWord _ _ _ _ _ _ hw] at h
    cases h
    rw [State.fetch, next_word, s.readWord_eq s.pc]

/-- Settles O55: the instruction decoded is the one fetched, and its fetch may use its addresses. -/
theorem stepRunsDecodedInstruction : Obligations.StepRunsDecodedInstruction := by
  unfold Obligations.StepRunsDecodedInstruction
  intro s i rest running decoded usable
  obtain rfl := fetch_eq_of_decode decoded
  exact step_of_usable running usable

end Sys2Proof.Machine

namespace Sys2Proof.Machine

/-! Addresses that may be used (D4, U15). -/

section Addresses

variable {s : State} {t : State} {fits : Prop} {wraps : Bool}

theorem unlessWrap_of_usable (bytes : Nat) (t : State) (usable : Usable s fits)
    (fitting : fits → wraps = false) : s.unlessWrap bytes wraps t = .next t :=
  (s.unlessWrap_eq_next bytes wraps t t).2 ⟨usable.imp_right fitting, rfl⟩

theorem unlessWrap_of_wraps (bytes : Nat) (t : State) (stops : s.config.addrWrap = .fault)
    (wrapping : wraps = true) :
    s.unlessWrap bytes wraps t = .fault (.addressWrap (s.instrAddress bytes) s) :=
  (s.unlessWrap_eq_fault bytes wraps t _).2 ⟨stops, wrapping, rfl⟩

variable (s) (rx : Reg) (offset : Nibble)

theorem wordWraps_eq_false_iff (a : Word) : wordWraps a = false ↔ a.toNat + 1 < 65536 := by
  rw [wordWraps, decide_eq_false_iff_not]
  omega

theorem indexedWraps_eq_false_iff :
    s.indexedWraps rx offset = false ↔ (s.reg rx).toNat + offset.toNat < 65536 := by
  rw [State.indexedWraps, decide_eq_false_iff_not]
  omega

/-- The sum of R125, mod 2^16. -/
theorem indexed_toNat :
    (s.indexed rx offset).toNat = ((s.reg rx).toNat + offset.toNat) % 65536 := by
  rw [State.indexed, BitVec.toNat_add, zextNibble_toNat]

theorem indexed_word_fits (h : (s.reg rx).toNat + offset.toNat + 1 < 65536) :
    (s.indexedWraps rx offset || wordWraps (s.indexed rx offset)) = false := by
  rw [Bool.or_eq_false_iff, indexedWraps_eq_false_iff, wordWraps_eq_false_iff, indexed_toNat]
  omega

theorem indexed_word_wraps (h : 65535 ≤ (s.reg rx).toNat + offset.toNat) :
    (s.indexedWraps rx offset || wordWraps (s.indexed rx offset)) = true := by
  rw [← Bool.not_eq_false, Bool.or_eq_false_iff, indexedWraps_eq_false_iff, wordWraps_eq_false_iff,
    indexed_toNat]
  omega

theorem pushWraps_eq_false_iff : s.pushWraps = false ↔ 2 ≤ (s.reg SP).toNat := by
  rw [State.pushWraps, decide_eq_false_iff_not]
  omega

theorem popWraps_eq_false_iff : s.popWraps = false ↔ (s.reg SP).toNat + 2 < 65536 := by
  rw [State.popWraps, decide_eq_false_iff_not]
  omega

end Addresses

/-! What memory and registers read after the data transfers. -/

section Values

variable (s : State) (a v : Word) (r : Reg)

theorem readWord_toNat :
    (s.readWord a).toNat = (s.readByte a).toNat + 256 * (s.readByte (a + 1)).toNat := by
  rw [s.readWord_eq, joinBytes_toNat]

theorem lowByte_toNat : (lowByte v).toNat = v.toNat % 256 := by
  simp [lowByte]

theorem highByte_toNat : (highByte v).toNat = v.toNat / 256 := by
  have := v.isLt
  simp [highByte, Nat.shiftRight_eq_div_pow]
  omega

theorem readByte_writeWord_low : (s.writeWord a v).readByte a = lowByte v := by
  rw [s.readByte_writeWord, if_pos rfl]

theorem readByte_writeWord_high : (s.writeWord a v).readByte (a + 1) = highByte v := by
  rw [s.readByte_writeWord, if_neg (Word.add_one_ne a), if_pos rfl]

/-- A stored word reads back whole (R54, R56). -/
theorem readWord_writeWord : (s.writeWord a v).readWord a = v := by
  rw [State.readWord_eq, readByte_writeWord_low, readByte_writeWord_high, joinBytes_low_high]

theorem holdsWord_writeWord : HoldsWord (s.writeWord a v) a v :=
  ⟨readByte_writeWord_low s a v, readByte_writeWord_high s a v⟩

theorem onlyMem_writeByte (b : Byte) : OnlyMem s (s.writeByte a b) [a] :=
  ⟨sameRegs_of_regs_eq rfl, ⟨rfl, rfl, rfl⟩, rfl, sameMem_writeByte s a b, ⟨rfl, rfl, rfl⟩, rfl, rfl⟩

theorem onlyMem_writeWord : OnlyMem s (s.writeWord a v) [a, a + 1] :=
  ⟨sameRegs_of_regs_eq rfl, ⟨rfl, rfl, rfl⟩, rfl, sameMem_writeWord s a v, ⟨rfl, rfl, rfl⟩, rfl, rfl⟩

end Values

/-! Loads and stores. -/

/-- Settles O7: both forms are one register write, of the byte at the address of the form. -/
theorem byteLoadsZeroExtend : Obligations.ByteLoadsZeroExtend := by
  unfold Obligations.ByteLoadsZeroExtend
  intro s r
  have value (a : Word) : ((s.setReg r (zextByte (s.readByte a))).reg r).toNat =
      (s.readByte a).toNat := by
    simp
  constructor
  · intro imm
    exact ⟨_, exec_lb s r imm, value imm, onlyReg_setReg s r _⟩
  · intro rx offset usable
    have goes := unlessWrap_of_usable 2 (s.setReg r (zextByte (s.readByte (s.indexed rx offset))))
      usable (indexedWraps_eq_false_iff s rx offset).2
    exact ⟨s.indexed rx offset, _, indexed_toNat s rx offset, (exec_lbx s r rx offset).trans goes,
      value _, onlyReg_setReg s r _⟩

/-- Settles O8: both forms are one register write, of the word at the address of the form. -/
theorem wordLoadsLittleEndian : Obligations.WordLoadsLittleEndian := by
  unfold Obligations.WordLoadsLittleEndian
  intro s r
  have value (a : Word) : ((s.setReg r (s.readWord a)).reg r).toNat =
      (s.readByte a).toNat + 256 * (s.readByte (a + 1)).toNat := by
    rw [State.reg_setReg_same, readWord_toNat]
  constructor
  · intro imm usable
    have goes := unlessWrap_of_usable 4 (s.setReg r (s.readWord imm)) usable
      (wordWraps_eq_false_iff imm).2
    exact ⟨_, (exec_lw s r imm).trans goes, value imm, onlyReg_setReg s r _⟩
  · intro rx offset usable
    have goes := unlessWrap_of_usable 2 (s.setReg r (s.readWord (s.indexed rx offset))) usable
      (indexed_word_fits s rx offset)
    exact ⟨s.indexed rx offset, _, indexed_toNat s rx offset, (exec_lwx s r rx offset).trans goes,
      value _, onlyReg_setReg s r _⟩

/-- Settles O9: both forms are one byte write, at the address of the form. -/
theorem byteStoresChangeOneByte : Obligations.ByteStoresChangeOneByte := by
  unfold Obligations.ByteStoresChangeOneByte
  intro s r
  have value (a : Word) : ((s.writeByte a (lowByte (s.reg r))).readByte a).toNat =
      (s.reg r).toNat % 256 := by
    rw [s.readByte_writeByte, if_pos rfl, lowByte_toNat]
  constructor
  · intro imm
    exact ⟨_, exec_stb s r imm, value imm, onlyMem_writeByte s imm _⟩
  · intro rx offset usable
    have goes := unlessWrap_of_usable 2 (s.writeByte (s.indexed rx offset) (lowByte (s.reg r))) usable
      (indexedWraps_eq_false_iff s rx offset).2
    exact ⟨indexed_toNat s rx offset, _, (exec_stbx s r rx offset).trans goes, value _,
      onlyMem_writeByte s _ _⟩

theorem exec_stw_of_usable {s : State} {a : Word} (r : Reg) (usable : Usable s (a.toNat + 1 < 65536)) :
    exec (.stw r a) s = .next (s.writeWord a (s.reg r)) :=
  (exec_stw s r a).trans (unlessWrap_of_usable 4 _ usable (wordWraps_eq_false_iff a).2)

/-- Settles O10: both forms are one word write, at the address of the form. -/
theorem wordStoresChangeTwoBytes : Obligations.WordStoresChangeTwoBytes := by
  unfold Obligations.WordStoresChangeTwoBytes
  intro s r
  constructor
  · intro imm usable
    exact ⟨_, exec_stw_of_usable r usable, holdsWord_writeWord s imm _, onlyMem_writeWord s imm _⟩
  · intro rx offset usable
    have goes := unlessWrap_of_usable 2 (s.writeWord (s.indexed rx offset) (s.reg r)) usable
      (indexed_word_fits s rx offset)
    exact ⟨_, (exec_stwx s r rx offset).trans goes, holdsWord_writeWord s _ _,
      onlyMem_writeWord s _ _⟩

/-- Settles O11: the loads read what the store left at its two addresses. -/
theorem storedWordLoadsBack : Obligations.StoredWordLoadsBack := by
  unfold Obligations.StoredWordLoadsBack
  intro s r q a usable
  refine ⟨_, exec_stw_of_usable r usable, ?word, ?low, ?high⟩
  case word =>
    have goes := unlessWrap_of_usable (s := s.writeWord a (s.reg r)) 4
      ((s.writeWord a (s.reg r)).setReg q ((s.writeWord a (s.reg r)).readWord a)) usable
      (wordWraps_eq_false_iff a).2
    exact ⟨_, (exec_lw _ q a).trans goes, by rw [State.reg_setReg_same, readWord_writeWord]⟩
  case low =>
    exact ⟨_, exec_lb _ q a, by
      rw [State.reg_setReg_same, zextByte_toNat, readByte_writeWord_low, lowByte_toNat]⟩
  case high =>
    exact ⟨_, exec_lb _ q (a + 1), by
      rw [State.reg_setReg_same, zextByte_toNat, readByte_writeWord_high, highByte_toNat]⟩

/-- The second of two words is not touched by a store to the first. -/
theorem readWord_add_two_writeWord (s : State) (a v : Word) :
    (s.writeWord a v).readWord (a + 2) = s.readWord (a + 2) := by
  have other (c : Word) (low : c ≠ a) (high : c ≠ a + 1) :
      (s.writeWord a v).readByte c = s.readByte c := by
    rw [s.readByte_writeWord, if_neg low, if_neg high]
  rw [State.readWord_eq, State.readWord_eq, other (a + 2) (by bv_omega) (by bv_omega),
    other (a + 2 + 1) (by bv_omega) (by bv_omega)]

/-- Settles O56: the store replaces the first word at pc and leaves the second. -/
theorem storeSeenByNextFetch : Obligations.StoreSeenByNextFetch := by
  unfold Obligations.StoreSeenByNextFetch
  intro s r usable
  refine ⟨_, exec_stw_of_usable r usable, rfl, ?_⟩
  rw [State.fetch, State.writeWord_config, State.writeWord_pc, readWord_writeWord,
    readWord_add_two_writeWord]

end Sys2Proof.Machine

namespace Sys2Proof.Machine

/-! The stack (R62, R63). -/

section Stack

variable (s : State) (v : Word)

theorem holdsWord_push : HoldsWord (s.push v) s.pushTarget v := holdsWord_writeWord s s.pushTarget v

theorem reg_sp_push : (s.push v).reg SP = s.reg SP - 2 := by
  rw [s.reg_push, if_pos rfl]

theorem reg_sp_popped : s.popped.reg SP = s.reg SP + 2 := by
  rw [s.reg_popped, if_pos rfl]

/-- A pop reads where the last push stored, under both conventions (C8, D3). -/
theorem popAddress_of_pushed (c : StackConvention) (sp : Word) :
    popAddress c (sp - 2) = pushAddress c sp := by
  cases c with
  | fullDescending => rfl
  | emptyDescending => simp only [popAddress, pushAddress]; bv_omega

theorem popValue_push : (s.push v).popValue = v := by
  rw [State.popValue, reg_sp_push, State.push_config, popAddress_of_pushed]
  exact readWord_writeWord s s.pushTarget v

theorem popValue_toNat :
    s.popValue.toNat =
      (s.readByte (popAddress s.config.stackConvention (s.reg SP))).toNat +
        256 * (s.readByte (popAddress s.config.stackConvention (s.reg SP) + 1)).toNat :=
  readWord_toNat s _

/-- Popping after a push gives every register back. -/
theorem reg_popped_push (q : Reg) : (s.push v).popped.reg q = s.reg q := by
  by_cases h : q = SP
  · subst h
    rw [reg_sp_popped, reg_sp_push, BitVec.sub_add_cancel]
  · rw [State.reg_popped, if_neg h, State.reg_push, if_neg h]

end Stack

/-- Where a push may use its addresses, so may the pop after it. -/
theorem usable_pop_of_push {s t : State} (usable : Usable s (2 ≤ (s.reg SP).toNat))
    (config : t.config = s.config) (sp : t.reg SP = s.reg SP - 2) :
    Usable t ((t.reg SP).toNat + 2 < 65536) := by
  have := (s.reg SP).isLt
  refine usable.imp (fun h => config ▸ h) fun fits => ?_
  rw [sp]
  bv_omega

section StackArms

variable {s : State}

theorem exec_push_of_usable (r : Reg) (usable : Usable s (2 ≤ (s.reg SP).toNat)) :
    exec (.push r) s = .next (s.push (s.reg r)) :=
  (exec_push s r).trans (unlessWrap_of_usable 2 _ usable (pushWraps_eq_false_iff s).2)

theorem exec_call_of_usable (imm : Word) (usable : Usable s (2 ≤ (s.reg SP).toNat)) :
    exec (.call imm) s = .next ((s.push s.pc).setPc imm) :=
  (exec_call s imm).trans (unlessWrap_of_usable 4 _ usable (pushWraps_eq_false_iff s).2)

theorem exec_exec_of_usable {r : Reg} (ne : r ≠ SP) (usable : Usable s (2 ≤ (s.reg SP).toNat)) :
    exec (.exec r) s = .next ((s.push s.pc).setPc (s.reg r)) :=
  (exec_exec s r ne).trans (unlessWrap_of_usable 2 _ usable (pushWraps_eq_false_iff s).2)

theorem exec_pop_of_usable {r : Reg} (ne : r ≠ SP)
    (usable : Usable s ((s.reg SP).toNat + 2 < 65536)) :
    exec (.pop r) s = .next (s.popped.setReg r s.popValue) :=
  (exec_pop s r ne).trans (unlessWrap_of_usable 2 _ usable (popWraps_eq_false_iff s).2)

theorem exec_ret_of_usable (usable : Usable s ((s.reg SP).toNat + 2 < 65536)) :
    exec .ret s = .next (s.popped.setPc s.popValue) :=
  (exec_ret s).trans (unlessWrap_of_usable 2 _ usable (popWraps_eq_false_iff s).2)

end StackArms

theorem pushTarget_eq (s : State) :
    s.pushTarget = (match s.config.stackConvention with
      | .fullDescending => s.reg SP - 2
      | .emptyDescending => s.reg SP - 1) := by
  unfold State.pushTarget
  cases s.config.stackConvention <;> rfl

theorem popAddress_eq (s : State) :
    popAddress s.config.stackConvention (s.reg SP) = (match s.config.stackConvention with
      | .fullDescending => s.reg SP
      | .emptyDescending => s.reg SP + 1) := by
  cases s.config.stackConvention <;> rfl

/-- Settles O12: PUSH is one push of the register. -/
theorem pushStoresBelowSp : Obligations.PushStoresBelowSp := by
  unfold Obligations.PushStoresBelowSp
  intro s r usable
  exact ⟨pushTarget_eq s, _, exec_push_of_usable r usable, holdsWord_push s _, reg_sp_push s _,
    sameRegs_push s _, ⟨rfl, rfl, rfl⟩, rfl, sameMem_push s _, ⟨rfl, rfl, rfl⟩, rfl, rfl⟩

/-- Settles O13: POP writes the popped word to a register that is not SP, and SP is as popped. -/
theorem popLoadsFromSp : Obligations.PopLoadsFromSp := by
  unfold Obligations.PopLoadsFromSp
  rintro s r a ne usable address
  obtain rfl := address.trans (popAddress_eq s).symm
  have value : ((s.popped.setReg r s.popValue).reg r).toNat = s.popValue.toNat := by
    rw [State.reg_setReg_same]
  have sp : (s.popped.setReg r s.popValue).reg SP = s.reg SP + 2 := by
    rw [State.reg_setReg_other _ _ _ _ ne.symm, reg_sp_popped]
  exact ⟨_, exec_pop_of_usable ne usable, value.trans (popValue_toNat s), sp,
    sameRegs_popped_setReg s _ r, ⟨rfl, rfl, rfl⟩, rfl, sameMem_of_mem_eq rfl, ⟨rfl, rfl, rfl⟩, rfl,
    rfl⟩

/-- Settles O14: POP R15 writes a free word to R15 and nothing else. -/
theorem popSpChangesOnlySp : Obligations.PopSpChangesOnlySp := by
  unfold Obligations.PopSpChangesOnlySp
  intro s usable
  have goes := unlessWrap_of_usable 2 (s.setRegFree SP) usable (popWraps_eq_false_iff s).2
  exact ⟨_, (exec_pop_sp s).trans goes, sameRegs_setRegFree s SP, ⟨rfl, rfl, rfl⟩, rfl,
    sameMem_of_mem_eq rfl, ⟨rfl, rfl, rfl⟩, rfl, rfl⟩

/-- Settles O15: the pop reads the word pushed and leaves SP where the push found it. -/
theorem pushThenPopGivesValueBack : Obligations.PushThenPopGivesValueBack := by
  unfold Obligations.PushThenPopGivesValueBack
  intro s r q ne usable
  have usable_pop := usable_pop_of_push usable (s.push_config (s.reg r)) (reg_sp_push s (s.reg r))
  refine ⟨_, _, exec_push_of_usable r usable, exec_pop_of_usable ne usable_pop, ?value, ?others⟩
  case value => rw [State.reg_setReg_same, popValue_push]
  case others =>
    intro p hp
    rw [State.reg_setReg_other _ _ _ _ (List.ne_of_not_mem_cons hp), reg_popped_push]

/-- What CALL, and EXEC r for r other than R15, leave. -/
theorem exec_callForm_of_usable {s : State} {i : Instr} {target : Word}
    (form : i = .call target ∨ ∃ r, r ≠ SP ∧ i = .exec r ∧ target = s.reg r)
    (usable : Usable s (2 ≤ (s.reg SP).toNat)) :
    exec i s = .next ((s.push s.pc).setPc target) := by
  obtain rfl | ⟨r, ne, rfl, rfl⟩ := form
  · exact exec_call_of_usable target usable
  · exact exec_exec_of_usable ne usable

/-- Settles O39: both forms are a push of pc and a write of pc. -/
theorem callAndExecPushReturnAddress : Obligations.CallAndExecPushReturnAddress := by
  unfold Obligations.CallAndExecPushReturnAddress
  intro s i target form usable
  exact ⟨_, exec_callForm_of_usable form usable, rfl, holdsWord_push s s.pc, reg_sp_push s s.pc,
    sameRegs_push s s.pc, ⟨rfl, rfl, rfl⟩, sameMem_push s s.pc, ⟨rfl, rfl, rfl⟩, rfl, rfl⟩

/-- Settles O40: EXEC R15 is a push of pc and a free word for pc. -/
theorem execSpPushesReturnAddress : Obligations.ExecSpPushesReturnAddress := by
  unfold Obligations.ExecSpPushesReturnAddress
  intro s usable
  have goes := unlessWrap_of_usable 2 (s.push s.pc).setPcFree usable (pushWraps_eq_false_iff s).2
  exact ⟨_, (exec_exec_sp s).trans goes, holdsWord_push s s.pc, reg_sp_push s s.pc,
    sameRegs_push s s.pc, ⟨rfl, rfl, rfl⟩, sameMem_push s s.pc, ⟨rfl, rfl, rfl⟩, rfl, rfl⟩

/-- Settles O41: RET is a pop into pc. -/
theorem retGoesToPoppedWord : Obligations.RetGoesToPoppedWord := by
  unfold Obligations.RetGoesToPoppedWord
  intro s a usable address
  obtain rfl := address.trans (popAddress_eq s).symm
  exact ⟨_, exec_ret_of_usable usable, popValue_toNat s, reg_sp_popped s, sameRegs_popped s,
    ⟨rfl, rfl, rfl⟩, sameMem_of_mem_eq rfl, ⟨rfl, rfl, rfl⟩, rfl, rfl⟩

/-- Settles O42: RET pops the pc that the call pushed, and SP comes back with it. -/
theorem callThenRetReturns : Obligations.CallThenRetReturns := by
  unfold Obligations.CallThenRetReturns
  intro s i form usable
  obtain ⟨target, run⟩ : ∃ target, exec i s = .next ((s.push s.pc).setPc target) := by
    obtain ⟨imm, rfl⟩ | ⟨r, ne, rfl⟩ := form
    · exact ⟨imm, exec_call_of_usable imm usable⟩
    · exact ⟨s.reg r, exec_exec_of_usable ne usable⟩
  have usable_ret : Usable ((s.push s.pc).setPc target) _ :=
    usable_pop_of_push usable (s.push_config s.pc) (reg_sp_push s s.pc)
  refine ⟨_, _, run, exec_ret_of_usable usable_ret, ?pc, ?regs⟩
  case pc => exact popValue_push s s.pc
  case regs => exact fun q _ => reg_popped_push s s.pc q

/-! Streams and moves. -/

/-- Settles O16: IN is one move of the read position and one register write. -/
theorem inTakesNextByte : Obligations.InTakesNextByte := by
  unfold Obligations.InTakesNextByte
  intro s r more
  have run := exec_inp_next s r _ (List.getElem?_eq_getElem more)
  exact ⟨_, run, by rw [State.reg_setReg_same, zextByte_toNat], rfl, rfl, rfl,
    sameRegs_setReg _ _ r, ⟨rfl, rfl, rfl⟩, rfl, sameMem_of_mem_eq rfl, rfl, rfl⟩

/-- Settles O17: there is no next byte, and `IN_AT_EOF` names the stop. -/
theorem inAtEndOfInputStops : Obligations.InAtEndOfInputStops := by
  unfold Obligations.InAtEndOfInputStops
  intro s r ended
  exact ⟨exec_inp_exhausted s r ended, exec_inp_blocked s r ended⟩

/-- Settles O18: OUT is one byte appended to standard output. -/
theorem outAppendsLowByte : Obligations.OutAppendsLowByte := by
  unfold Obligations.OutAppendsLowByte
  intro s r
  exact ⟨_, lowByte (s.reg r), exec_out s r, lowByte_toNat _, rfl, rfl, rfl, sameRegs_of_regs_eq rfl,
    ⟨rfl, rfl, rfl⟩, rfl, sameMem_of_mem_eq rfl, rfl, rfl⟩

/-- Settles O19: under either direction MOV is one register write. -/
theorem movCopiesRegister : Obligations.MovCopiesRegister := by
  unfold Obligations.MovCopiesRegister
  intro s rs rt
  cases direction : s.config.movDirection with
  | secondIsDestination =>
    exact ⟨_, exec_mov_second s rs rt direction,
      fun _ => ⟨s.reg_setReg_same rt _, onlyReg_setReg s rt _⟩, nofun⟩
  | firstIsDestination =>
    exact ⟨_, exec_mov_first s rs rt direction, nofun,
      fun _ => ⟨s.reg_setReg_same rs _, onlyReg_setReg s rs _⟩⟩

/-- Settles O46: a display appends its text to standard output, and outside debugging mode it changes
nothing at all. -/
theorem displaysChangeOnlyOutput : Obligations.DisplaysChangeOnlyOutput := by
  unfold Obligations.DisplaysChangeOnlyOutput
  intro s i form
  have run : exec i s = .next s.display := by
    obtain rfl | rfl := form
    · exact exec_regs s
    · exact exec_dump s
  obtain ⟨text, appended⟩ := s.display_stdout
  have off (quiet : s.config.debugMode = false) : text = [] ∧ s.display = s := by
    rw [s.display_off quiet] at appended
    exact ⟨List.self_eq_append_right.1 appended, s.display_off quiet⟩
  exact ⟨_, text, run, appended, off, s.display_stdin, s.display_stdinPos,
    sameRegs_of_regs_eq s.display_regs, ⟨s.display_flagZ, s.display_flagN, s.display_flagC⟩,
    s.display_pc, sameMem_of_mem_eq s.display_mem, s.display_halted, s.display_config⟩

/-! Stops (R241, U15). -/

/-- Settles O54: each form guards its effect with `unlessWrap`, on the test of its own addresses. -/
theorem addressWrapStopsWhereConfigured : Obligations.AddressWrapStopsWhereConfigured := by
  unfold Obligations.AddressWrapStopsWhereConfigured
  intro s stops
  refine ⟨?words, ?indexed, ?pushes, ?pops, ?fetches⟩
  case words =>
    intro r imm i form last
    have wraps : wordWraps imm = true := decide_eq_true (by omega)
    obtain rfl | rfl := form
    · exact unlessWrap_of_wraps 4 _ stops wraps
    · exact unlessWrap_of_wraps 4 _ stops wraps
  case indexed =>
    intro r rx o i form
    obtain ⟨form, past⟩ | ⟨form, past⟩ := form
    · have wraps : s.indexedWraps rx o = true := decide_eq_true past
      obtain rfl | rfl := form
      · exact unlessWrap_of_wraps 2 _ stops wraps
      · exact unlessWrap_of_wraps 2 _ stops wraps
    · have wraps := indexed_word_wraps s rx o past
      obtain rfl | rfl := form
      · exact unlessWrap_of_wraps 2 _ stops wraps
      · exact unlessWrap_of_wraps 2 _ stops wraps
  case pushes =>
    intro below
    have wraps : s.pushWraps = true := decide_eq_true below
    exact ⟨fun r => ⟨unlessWrap_of_wraps 2 _ stops wraps, unlessWrap_of_wraps 2 _ stops wraps⟩,
      fun imm => unlessWrap_of_wraps 4 _ stops wraps⟩
  case pops =>
    intro past
    have wraps : s.popWraps = true := decide_eq_true (by omega)
    exact ⟨fun r => unlessWrap_of_wraps 2 _ stops wraps, unlessWrap_of_wraps 2 _ stops wraps⟩
  case fetches =>
    intro running past
    have fault : s.fetchFault = some (.addressWrap s.pc s) :=
      if_pos ⟨stops, decide_eq_true past⟩
    exact (step_eq_fault s _).2 ⟨running, .inl fault⟩

end Sys2Proof.Machine

namespace Sys2Proof.Machine

/-! The results of the arithmetic operations, as operations on words (R140 to R158). -/

section Results

variable (a b : Word)

theorem decide_eq_toNat : decide (a = b) = decide (a.toNat = b.toNat) :=
  decide_eq_decide.2 BitVec.toNat_inj.symm

@[simp] theorem addOp_value : (addOp a b).value = a + b := by
  rw [addOp, BitVec.ofNat_add, BitVec.ofNat_toNat, BitVec.ofNat_toNat]
  rfl

@[simp] theorem addOp_carry : (addOp a b).carry = some (decide (65536 ≤ a.toNat + b.toNat)) := rfl

@[simp] theorem subOp_value : (subOp a b).value = a - b := by
  apply BitVec.eq_of_toNat_eq
  have := b.isLt
  simp [subOp, BitVec.toNat_ofInt, BitVec.toNat_sub]
  omega

@[simp] theorem subOp_carry : (subOp a b).carry = some (decide (a.toNat < b.toNat)) := rfl

@[simp] theorem negOp_value (p : CarryNeg) : (negOp p a).value = -a := by
  rw [negOp, Int.zero_sub, BitVec.ofInt_neg, BitVec.ofInt_natCast, BitVec.ofNat_toNat]
  rfl

@[simp] theorem absOp_value (p : AbsModel) (neg : CarryNeg) :
    (absOp p neg a).value = if a.msb then -a else a := by
  rw [← negOp_value a neg]
  rfl

/-- The low half of a product is the same for the signed and the unsigned reading (R157). -/
@[simp] theorem mulOp_value (p : CarryMul) : (mulOp p a b).value = a * b := by
  rw [mulOp, BitVec.ofNat_mul, BitVec.ofNat_toNat, BitVec.ofNat_toNat]
  rfl

theorem mul_eq_ofInt : a * b = BitVec.ofInt 16 (a.toInt * b.toInt) := by
  rw [BitVec.ofInt_mul, BitVec.ofInt_toInt, BitVec.ofInt_toInt]

theorem abs_toNat : (if a.msb then -a else a).toNat = a.toInt.natAbs := by
  have bound := a.isLt
  have sign := BitVec.toInt_eq_msb_cond a
  cases negative : a.msb with
  | true =>
    have large : 32768 ≤ a.toNat := of_decide_eq_true ((BitVec.msb_eq_decide a).symm.trans negative)
    rw [negative, if_pos rfl] at sign
    rw [sign, if_pos rfl, BitVec.toNat_neg]
    omega
  | false =>
    rw [negative] at sign
    rw [sign]
    rfl

end Results

/-! What a register and C hold after a result is written. -/

theorem reg_setResult_same (s : State) (r : Reg) (x : AluResult) :
    (s.setResult r x).reg r = x.value := by
  simp

theorem flagC_setResult {s : State} {x : AluResult} {c : Bool} (r : Reg) (carry : x.carry = some c) :
    (s.setResult r x).flagC = c := by
  rw [State.setResult_flagC, carry]
  rfl

/-- Settles O20: the two's complement is the negation of the word. -/
theorem negTwosComplement : Obligations.NegTwosComplement := by
  unfold Obligations.NegTwosComplement
  intro s r
  refine ⟨_, exec_neg s r, ?value, ?carry, resultIn_setResult s r _⟩
  case value => rw [reg_setResult_same, negOp_value, BitVec.toNat_neg]
  case carry =>
    cases s.config.carryNeg with
    | borrow =>
      refine flagC_setResult r (congrArg some ?_)
      exact decide_eq_decide.2 (not_congr BitVec.toNat_inj.symm)
    | zero => exact flagC_setResult r rfl
    | overflow => exact flagC_setResult r (congrArg some (decide_eq_toNat _ _))
    | any => trivial

theorem carryAbs_likeNeg_of_nonneg {a : Word} (neg : CarryNeg) (h : 0 ≤ a.toInt) :
    carryAbs .likeNeg neg a = some false := by
  have positive : a.msb = false := by rw [BitVec.msb_eq_toInt, decide_eq_false_iff_not]; omega
  simp [carryAbs, positive]

theorem carryAbs_likeNeg_of_neg {a : Word} (neg : CarryNeg) (h : a.toInt < 0) :
    carryAbs .likeNeg neg a = carryNeg neg a := by
  have negative : a.msb = true := by rw [BitVec.msb_eq_toInt, decide_eq_true h]
  simp [carryAbs, negative]

/-- Settles O21: a negative operand is negated, any other kept; under "as for NEG" the sign of the operand
chooses the carry. -/
theorem absAbsoluteValue : Obligations.AbsAbsoluteValue := by
  unfold Obligations.AbsAbsoluteValue
  intro s r
  refine ⟨_, exec_abs s r, ?value, ?carry, resultIn_setResult s r _⟩
  case value => rw [reg_setResult_same, absOp_value, abs_toNat]
  case carry =>
    cases s.config.absModel with
    | zero => exact flagC_setResult r rfl
    | any => trivial
    | likeNeg =>
      refine ⟨fun h => flagC_setResult r (carryAbs_likeNeg_of_nonneg _ h), fun h => ?_⟩
      have carry := carryAbs_likeNeg_of_neg s.config.carryNeg h
      refine ⟨fun p => ?ofBorrow, fun p => ?ofZero, fun p => ?ofOverflow⟩
      case ofBorrow =>
        have nonzero : s.reg r ≠ 0 := by
          intro zero
          rw [zero] at h
          cases h
        exact flagC_setResult r (carry.trans (by rw [p]; exact congrArg some (decide_eq_true nonzero)))
      case ofZero => exact flagC_setResult r (carry.trans (by rw [p]; rfl))
      case ofOverflow =>
        exact flagC_setResult r (carry.trans (by rw [p]; exact congrArg some (decide_eq_toNat _ _)))

theorem onlyFlags_setFlags (s : State) (x : AluResult) : OnlyFlags s (s.setFlags x) :=
  ⟨sameRegs_of_regs_eq (s.setFlags_regs x), s.setFlags_pc x, sameMem_of_mem_eq (s.setFlags_mem x),
    ⟨s.setFlags_stdin x, s.setFlags_stdinPos x, s.setFlags_stdout x⟩, s.setFlags_halted x,
    s.setFlags_config x⟩

/-! The flags of a comparison (R156). -/

section Compare

variable (s : State) (a b : Word)

theorem flagZ_setFlags_subOp : (s.setFlags (subOp a b)).flagZ = decide (a = b) := by
  rw [State.setFlags_flagZ, subOp_value]
  exact decide_eq_decide.2 sub_eq_zero

theorem flagN_setFlags_subOp : (s.setFlags (subOp a b)).flagN = (a - b).msb := by
  rw [State.setFlags_flagN, subOp_value]

theorem flagC_setFlags_subOp : (s.setFlags (subOp a b)).flagC = decide (a.toNat < b.toNat) := by
  rw [State.setFlags_flagC, subOp_carry]
  rfl

end Compare

/-- Settles O23: both forms are one flag update from the difference. -/
theorem compareSetsFlagsOnly : Obligations.CompareSetsFlagsOnly := by
  unfold Obligations.CompareSetsFlagsOnly
  intro s
  constructor
  · intro r1 r2
    exact ⟨_, exec_cmp s r1 r2, flagZ_setFlags_subOp s _ _,
      (flagN_setFlags_subOp s _ _).trans (BitVec.msb_eq_getLsbD_last _), flagC_setFlags_subOp s _ _,
      onlyFlags_setFlags s _⟩
  · intro r v
    refine ⟨_, exec_cmpq s r v, ?zero, ?negative, ?carry, onlyFlags_setFlags s _⟩
    case zero => rw [flagZ_setFlags_subOp, decide_eq_toNat, zextNibble_toNat]
    case negative =>
      rw [flagN_setFlags_subOp, zextNibble_eq_setWidth]
      exact BitVec.msb_eq_getLsbD_last _
    case carry => rw [flagC_setFlags_subOp, zextNibble_toNat]

/-- Settles O24: both forms write one sum of words. -/
theorem addWithCarryOut : Obligations.AddWithCarryOut := by
  unfold Obligations.AddWithCarryOut
  intro s
  constructor
  · intro r1 r2 rt
    refine ⟨_, exec_add s r1 r2 rt, ?_, flagC_setResult rt (addOp_carry _ _), resultIn_setResult s rt _⟩
    rw [reg_setResult_same, addOp_value, BitVec.toNat_add]
  · intro r v
    refine ⟨_, exec_addq s r v, ?value, ?carry, resultIn_setResult s r _⟩
    case value => rw [reg_setResult_same, addOp_value, BitVec.toNat_add, zextNibble_toNat]
    case carry => rw [flagC_setResult r (addOp_carry _ _), zextNibble_toNat]

theorem sub_toNat (a b : Word) : (a - b).toNat = (65536 + a.toNat - b.toNat) % 65536 := by
  have := b.isLt
  rw [BitVec.toNat_sub]
  omega

/-- Settles O25: both forms write one difference of words. -/
theorem subWithBorrow : Obligations.SubWithBorrow := by
  unfold Obligations.SubWithBorrow
  intro s
  constructor
  · intro r1 r2 rt
    refine ⟨_, exec_sub s r1 r2 rt, ?_, flagC_setResult rt (subOp_carry _ _), resultIn_setResult s rt _⟩
    rw [reg_setResult_same, subOp_value, sub_toNat]
  · intro r v
    refine ⟨_, exec_subq s r v, ?value, ?carry, resultIn_setResult s r _⟩
    case value => rw [reg_setResult_same, subOp_value, sub_toNat, zextNibble_toNat]
    case carry => rw [flagC_setResult r (subOp_carry _ _), zextNibble_toNat]

/-! Products. -/

/-- A signed product overflows exactly where the word left is not the product (D13). -/
theorem toInt_ofInt_ne_iff (z : Int) :
    (BitVec.ofInt 16 z).toInt ≠ z ↔ z < -32768 ∨ z > 32767 := by
  rw [BitVec.toInt_ofInt, Int.bmod_def]
  omega

/-- C after a product, for each value of `CARRY_MUL` (D13). -/
theorem flagC_setResult_mulOp (s : State) (r : Reg) (p : CarryMul) (a b : Word) :
    match p with
    | .unsignedOverflow =>
      (s.setResult r (mulOp p a b)).flagC = decide (65536 ≤ a.toNat * b.toNat)
    | .signedOverflow =>
      (s.setResult r (mulOp p a b)).flagC = decide ((a * b).toInt ≠ a.toInt * b.toInt)
    | .zero => (s.setResult r (mulOp p a b)).flagC = false
    | .any => True := by
  cases p with
  | unsignedOverflow => exact flagC_setResult r rfl
  | signedOverflow =>
    refine flagC_setResult r (congrArg some (decide_eq_decide.2 ?_))
    rw [mul_eq_ofInt, toInt_ofInt_ne_iff]
  | zero => exact flagC_setResult r rfl
  | any => trivial

theorem zextNibble_toInt (v : Nibble) : (zextNibble v).toInt = v.toNat := by
  have := v.isLt
  rw [BitVec.toInt_eq_toNat_of_lt, zextNibble_toNat]
  rw [zextNibble_toNat]
  omega

/-- Settles O26: both forms write one product of words. -/
theorem mulLowHalf : Obligations.MulLowHalf := by
  unfold Obligations.MulLowHalf
  intro s
  constructor
  · intro r1 r2 rt
    have carry := flagC_setResult_mulOp s rt s.config.carryMul (s.reg r1) (s.reg r2)
    refine ⟨_, exec_mul s r1 r2 rt, ?value, ?signed, ?carry, resultIn_setResult s rt _⟩
    case value => rw [reg_setResult_same, mulOp_value, BitVec.toNat_mul]
    case signed => rw [reg_setResult_same, mulOp_value, mul_eq_ofInt]
    case carry =>
      rw [reg_setResult_same, mulOp_value]
      exact carry
  · intro r v
    have carry := flagC_setResult_mulOp s r s.config.carryMul (s.reg r) (zextNibble v)
    rw [zextNibble_toNat, zextNibble_toInt] at carry
    refine ⟨_, exec_mulq s r v, ?value, ?carry, resultIn_setResult s r _⟩
    case value => rw [reg_setResult_same, mulOp_value, BitVec.toNat_mul, zextNibble_toNat]
    case carry =>
      rw [reg_setResult_same, mulOp_value]
      exact carry

end Sys2Proof.Machine

namespace Sys2Proof.Machine

/-! Division (R158). -/

/-- Quotient and remainder before they are cut to 16 bits, rounding toward zero or unsigned as
`DIV_SIGNED` says. -/
def quotientRemainder (signed : Bool) (a b : Word) : Int × Int :=
  if signed then (a.toInt.tdiv b.toInt, a.toInt.tmod b.toInt)
  else ((a.toNat : Int) / b.toNat, (a.toNat : Int) % b.toNat)

theorem divOp_eq_ofInt (signed : Bool) (a b : Word) :
    divOp signed a b = (BitVec.ofInt 16 (quotientRemainder signed a b).1,
      BitVec.ofInt 16 (quotientRemainder signed a b).2) := by
  cases signed with
  | true => rfl
  | false =>
    have ofInt_natCast (n : Nat) : BitVec.ofInt 16 (n : Int) = BitVec.ofNat 16 n :=
      BitVec.ofInt_natCast 16 n
    simp only [divOp, quotientRemainder, ← Int.natCast_ediv, ← Int.natCast_emod, ofInt_natCast,
      Bool.false_eq_true, if_false]

theorem signedDivision_tdiv_tmod {a b : Word} (nonzero : b ≠ 0#16) :
    SignedDivision a b (a.toInt.tdiv b.toInt) (a.toInt.tmod b.toInt) := by
  have nonzero : b.toInt ≠ 0 := fun zero => nonzero (BitVec.toInt_inj.1 (by rw [zero]; rfl))
  refine ⟨(Int.tdiv_mul_add_tmod a.toInt b.toInt).symm, ?below, ?nonneg, ?nonpos⟩
  case below =>
    rw [Int.natAbs_tmod]
    exact Nat.mod_lt _ (Int.natAbs_pos.2 nonzero)
  case nonneg => exact fun h => Int.tmod_nonneg _ h
  case nonpos =>
    intro h
    have := Int.tmod_nonneg b.toInt (Int.neg_nonneg_of_nonpos h)
    rw [Int.neg_tmod] at this
    omega

theorem unsignedDivision_ediv_emod {a b : Word} (nonzero : b ≠ 0#16) :
    UnsignedDivision a b ((a.toNat : Int) / b.toNat) ((a.toNat : Int) % b.toNat) := by
  have positive : 0 < (b.toNat : Int) := by
    have : b.toNat ≠ 0 := fun zero => nonzero (BitVec.toNat_inj.1 zero)
    omega
  exact ⟨(Int.ediv_mul_add_emod _ _).symm, Int.emod_nonneg _ (by omega), Int.emod_lt_of_pos _ positive⟩

theorem division_quotientRemainder (signed : Bool) {a b : Word} (nonzero : b ≠ 0#16) :
    if signed then SignedDivision a b (quotientRemainder signed a b).1 (quotientRemainder signed a b).2
    else UnsignedDivision a b (quotientRemainder signed a b).1 (quotientRemainder signed a b).2 := by
  cases signed with
  | true => exact signedDivision_tdiv_tmod nonzero
  | false => exact unsignedDivision_ediv_emod nonzero

theorem divOverflows_iff (signed : Bool) (a b : Word) :
    divOverflows signed a b = true ↔ signed = true ∧ a = 0x8000#16 ∧ b = 0xFFFF#16 := by
  simp [divOverflows, and_assoc]

/-- The result a division writes: quotient or remainder as `pick` says, C by `CARRY_DIV` (R158). -/
def divisionResult (config : Config) (pick : Word × Word → Word) (a b : Word) : AluResult where
  value := pick (divOp config.divSigned a b)
  carry := carryDiv config.carryDiv

/-- A division that meets neither fault writes its result. -/
theorem divide_eq_setResult {s : State} (pick : Word × Word → Word) (r : Reg) {a b : Word}
    (nonzero : b ≠ 0#16)
    (fits : ¬ (s.config.divSigned = true ∧ s.config.divOverflow = .fault ∧ a = 0x8000#16 ∧
      b = 0xFFFF#16)) :
    s.divide pick r a b = .next (s.setResult r (divisionResult s.config pick a b)) := by
  refine (s.divide_eq_next pick r a b _).2 ⟨nonzero, ?_, rfl⟩
  rw [divOverflows_iff]
  exact fun ⟨⟨signed, dividend, divisor⟩, fault⟩ => fits ⟨signed, fault, dividend, divisor⟩

theorem flagC_setResult_division {s : State} (pick : Word × Word → Word) (r : Reg) (a b : Word)
    (cleared : s.config.carryDiv = .zero) :
    (s.setResult r (divisionResult s.config pick a b)).flagC = false :=
  flagC_setResult r (by rw [divisionResult, cleared]; rfl)

/-- What a division that meets neither fault leaves, whichever of the four instructions it is. -/
theorem division_leaves {s : State} {i : Instr} {pick : Word × Word → Word} {r : Reg} {a b v : Word}
    (run : exec i s = s.divide pick r a b) (nonzero : b ≠ 0#16)
    (fits : ¬ (s.config.divSigned = true ∧ s.config.divOverflow = .fault ∧ a = 0x8000#16 ∧
      b = 0xFFFF#16))
    (value : pick (divOp s.config.divSigned a b) = v) :
    ∃ t, exec i s = .next t ∧ t.reg r = v ∧ (s.config.carryDiv = .zero → t.flagC = false) ∧
      ResultIn s t r :=
  ⟨_, run.trans (divide_eq_setResult pick r nonzero fits), (reg_setResult_same s r _).trans value,
    flagC_setResult_division pick r a b, resultIn_setResult s r _⟩

/-- Settles O27: the four forms write the parts of one pair, which is the quotient and the remainder. -/
theorem divisionQuotientAndRemainder : Obligations.DivisionQuotientAndRemainder := by
  unfold Obligations.DivisionQuotientAndRemainder
  intro s a b nonzero fits
  have pair := divOp_eq_ofInt s.config.divSigned a b
  have quotient := congrArg Prod.fst pair
  have remainder := congrArg Prod.snd pair
  refine ⟨_, _, division_quotientRemainder s.config.divSigned nonzero, ?registers, ?quick⟩
  case registers =>
    rintro r1 r2 rt rfl rfl
    exact ⟨division_leaves (exec_div s r1 r2 rt) nonzero fits quotient,
      division_leaves (exec_mod s r1 r2 rt) nonzero fits remainder⟩
  case quick =>
    rintro r v rfl rfl
    rw [← zextNibble_eq_setWidth] at nonzero fits quotient remainder ⊢
    exact ⟨division_leaves (exec_divq s r v) nonzero fits quotient,
      division_leaves (exec_modq s r v) nonzero fits remainder⟩

theorem divide_by_zero (s : State) (pick : Word × Word → Word) (r : Reg) (a : Word) :
    s.divide pick r a 0#16 = .fault (.divideByZero (s.pc - 2) s) :=
  (s.divide_eq_fault pick r a 0#16 _).2 (.inl ⟨rfl, rfl⟩)

/-- Settles O28: the test of the divisor comes first in the shared body of the four forms. -/
theorem divisionByZeroStops : Obligations.DivisionByZeroStops := by
  unfold Obligations.DivisionByZeroStops
  intro s
  constructor
  · intro r1 r2 rt zero
    rw [exec_div, exec_mod, zero]
    exact ⟨divide_by_zero s _ rt _, divide_by_zero s _ rt _⟩
  · intro r
    exact ⟨(exec_divq s r 0).trans (divide_by_zero s _ r _),
      (exec_modq s r 0).trans (divide_by_zero s _ r _)⟩

/-- Settles O29: under wrap the pair is 0x8000 and 0, and Z and N follow it; under fault the division
stops. -/
theorem signedDivisionOverflow : Obligations.SignedDivisionOverflow := by
  unfold Obligations.SignedDivisionOverflow
  intro s r1 r2 rt dividend divisor signed
  have nonzero : s.reg r2 ≠ 0#16 := by rw [divisor]; decide
  have pair : divOp s.config.divSigned (s.reg r1) (s.reg r2) = (0x8000#16, 0#16) := by
    rw [signed, dividend, divisor]
    decide
  constructor
  · intro wrap
    have fits : ¬ (s.config.divSigned = true ∧ s.config.divOverflow = .fault ∧
        s.reg r1 = 0x8000#16 ∧ s.reg r2 = 0xFFFF#16) := by
      simp [wrap]
    obtain ⟨t, runs, value, -, ⟨-, negative⟩, -⟩ :=
      division_leaves (exec_div s r1 r2 rt) nonzero fits (congrArg Prod.fst pair)
    obtain ⟨u, runs', value', -, ⟨zero, -⟩, -⟩ :=
      division_leaves (exec_mod s r1 r2 rt) nonzero fits (congrArg Prod.snd pair)
    exact ⟨⟨t, runs, value, by rw [negative, value]; rfl⟩,
      ⟨u, runs', value', by rw [zero, value']; rfl⟩⟩
  · intro fault
    have overflows := (divOverflows_iff _ _ _).2 ⟨signed, dividend, divisor⟩
    have stops (pick : Word × Word → Word) : s.divide pick rt (s.reg r1) (s.reg r2) =
        .fault (.divideOverflow (s.pc - 2) s) :=
      (s.divide_eq_fault pick rt _ _ _).2 (.inr ⟨nonzero, overflows, fault, rfl⟩)
    exact ⟨stops Prod.fst, stops Prod.snd⟩

/-! Two machines that differ in their configuration alone. -/

/-- Machines with the same registers that write the same result to the same register agree on every
register, Z, N and, where C is definite, C. -/
theorem setResult_agree {s u : State} (same : u.regs = s.regs) (r : Reg) (x : AluResult) :
    (∀ q, (s.setResult r x).reg q = (u.setResult r x).reg q) ∧
      (s.setResult r x).flagZ = (u.setResult r x).flagZ ∧
      (s.setResult r x).flagN = (u.setResult r x).flagN := by
  refine ⟨fun q => ?_, by simp, by simp⟩
  rw [State.reg_setResult, State.reg_setResult, sameRegs_of_regs_eq same q List.not_mem_nil]

/-- Below 0x8000 the two readings of a word agree, and so do their divisions (U3). -/
theorem divOp_of_small (signed : Bool) {a b : Word} (ha : a.toNat < 0x8000) (hb : b.toNat < 0x8000) :
    divOp signed a b = divOp false a b := by
  cases signed with
  | false => rfl
  | true =>
    have toInt_a : a.toInt = a.toNat := BitVec.toInt_eq_toNat_of_lt (by omega)
    have toInt_b : b.toInt = b.toNat := BitVec.toInt_eq_toNat_of_lt (by omega)
    rw [divOp_eq_ofInt, divOp_eq_ofInt]
    simp only [quotientRemainder, toInt_a, toInt_b, Int.tdiv_eq_ediv_of_nonneg (Int.natCast_nonneg _),
      Int.tmod_eq_emod_of_nonneg (Int.natCast_nonneg _), if_true, Bool.false_eq_true, if_false]

/-- The division an instruction is, on whatever configuration (R151 to R154). -/
theorem exec_division_form {s : State} {a b : Word} {i : Instr}
    (form : (∃ r1 r2 rt, a = s.reg r1 ∧ b = s.reg r2 ∧ (i = .div r1 r2 rt ∨ i = .mod r1 r2 rt)) ∨
      (∃ r, ∃ v : Nibble, a = s.reg r ∧ b = v.setWidth 16 ∧ (i = .divq r v ∨ i = .modq r v))) :
    ∃ pick r, ∀ u : State, u.regs = s.regs → exec i u = u.divide pick r a b := by
  have reg {u : State} (same : u.regs = s.regs) (q : Reg) : u.reg q = s.reg q :=
    sameRegs_of_regs_eq same q List.not_mem_nil
  obtain ⟨r1, r2, rt, rfl, rfl, rfl | rfl⟩ | ⟨r, v, rfl, rfl, rfl | rfl⟩ := form
  · exact ⟨_, _, fun u same => by rw [exec_div, reg same, reg same]⟩
  · exact ⟨_, _, fun u same => by rw [exec_mod, reg same, reg same]⟩
  · exact ⟨_, _, fun u same => by rw [exec_divq, reg same, zextNibble_eq_setWidth]⟩
  · exact ⟨_, _, fun u same => by rw [exec_modq, reg same, zextNibble_eq_setWidth]⟩

/-- Settles O30: both runs write the same result, that of the unsigned division. -/
theorem smallDivisionIgnoresSignedness : Obligations.SmallDivisionIgnoresSignedness := by
  unfold Obligations.SmallDivisionIgnoresSignedness
  intro s sg a b i small_a small_b nonzero form
  obtain ⟨pick, r, run⟩ := exec_division_form form
  have result (u : State) (same : u.regs = s.regs) (carry : u.config.carryDiv = s.config.carryDiv) :
      exec i u = .next (u.setResult r
        { value := pick (divOp false a b), carry := carryDiv s.config.carryDiv }) := by
    rw [run u same, divide_eq_setResult pick r nonzero, divisionResult, carry,
      divOp_of_small _ small_a small_b]
    rintro ⟨-, -, rfl, -⟩
    exact absurd small_a (by decide)
  obtain ⟨regs, flagZ, flagN⟩ := setResult_agree
    (s := s) (u := { s with config := { s.config with divSigned := sg } }) rfl r
    { value := pick (divOp false a b), carry := carryDiv s.config.carryDiv }
  refine ⟨_, _, result s rfl rfl, result _ rfl rfl, regs, flagZ, flagN, fun cleared => ?_⟩
  rw [flagC_setResult r (congrArg carryDiv cleared), flagC_setResult r (congrArg carryDiv cleared)]

end Sys2Proof.Machine

namespace Sys2Proof.Machine

/-! Shifts (R170 to R179). -/

theorem registerCount_eq_shiftCount (mode : ShiftCountMode) (v : Word) :
    registerCount mode v = shiftCount mode v := by
  cases mode with
  | full => exact (shiftCount_full v).symm
  | mod16 => exact (shiftCount_mod16 v).symm

section ShiftResults

variable (a : Word) (n : Nat)

theorem shlOp_value (p : CarrySal) : (shlOp p a n).value = a <<< n := by
  apply BitVec.eq_of_toNat_eq
  rw [BitVec.toNat_shiftLeft, Nat.shiftLeft_eq, shlOp]
  split
  · exact BitVec.toNat_ofNat _ _
  · obtain ⟨m, rfl⟩ : ∃ m, n = 16 + m := ⟨n - 16, by omega⟩
    rw [Nat.pow_add, ← Nat.mul_assoc, Nat.mul_right_comm, Nat.mul_mod_left]
    rfl

theorem shl_getLsbD (k : Nat) (hk : k < 16) :
    (a <<< n).getLsbD k = (decide (n ≤ k) && a.getLsbD (k - n)) := by
  rw [BitVec.getLsbD_shiftLeft, decide_eq_true hk, Bool.true_and, ← decide_not]
  simp only [Nat.not_lt]

/-- A word reaches 2^m exactly where one of its bits from m up is set. -/
theorem two_pow_le_toNat_iff (m : Nat) :
    2 ^ m ≤ a.toNat ↔ ∃ k, k < 16 ∧ m ≤ k ∧ a.getLsbD k = true := by
  constructor
  · intro le
    by_contra none
    refine Nat.not_lt.2 le (Nat.lt_pow_two_of_testBit _ fun k hk => ?_)
    by_cases hk16 : k < 16
    · exact Bool.eq_false_of_not_eq_true fun set => none ⟨k, hk16, hk, set⟩
    · exact BitVec.getLsbD_of_ge a k (by omega)
  · rintro ⟨k, -, hm, set⟩
    by_contra lt
    have below : a.toNat < 2 ^ k := (Nat.lt_of_not_le lt).trans_le (Nat.pow_le_pow_right (by decide) hm)
    have clear : a.getLsbD k = false := Nat.testBit_lt_two_pow below
    rw [clear] at set
    cases set

/-- Under `CARRY_SAL` = OR of the bits out, C says that the operand reaches the bits that leave (D18). -/
theorem carrySal_orOut : carrySal .orOut a n = some (decide (2 ^ (16 - n) ≤ a.toNat)) := by
  refine congrArg some ?_
  split
  · refine decide_eq_decide.2 ?_
    have bits_out : 65536 = 2 ^ (16 - n) * 2 ^ n := by rw [← Nat.pow_add, Nat.sub_add_cancel (by omega)]
    rw [ge_iff_le, bits_out]
    exact Nat.mul_le_mul_right_iff (Nat.two_pow_pos n)
  · refine decide_eq_decide.2 ?_
    rw [Nat.sub_eq_zero_of_le (by omega), Ne, ← BitVec.toNat_inj]
    exact Nat.one_le_iff_ne_zero.symm

theorem carrySal_orOut_iff :
    decide (2 ^ (16 - n) ≤ a.toNat) = true ↔ ∃ k, k < 16 ∧ 16 ≤ k + n ∧ a.getLsbD k = true := by
  rw [decide_eq_true_iff, two_pow_le_toNat_iff]
  simp only [Nat.sub_le_iff_le_add]

/-- From 15 up only the sign is left (R178). -/
theorem sar_of_fifteen_le (h : 15 ≤ n) :
    BitVec.ofInt 16 (a.toInt / 2 ^ n) = if a.msb then 0xFFFF#16 else 0#16 := by
  have large : (2 : Int) ^ 15 ≤ 2 ^ n := by exact_mod_cast Nat.pow_le_pow_right (by decide) h
  have below := BitVec.toInt_lt (x := a)
  have above := BitVec.le_toInt a
  rw [BitVec.msb_eq_toInt]
  by_cases negative : a.toInt < 0
  · rw [decide_eq_true negative, Int.ediv_eq_neg_one_of_neg_of_le negative (by omega)]
    rfl
  · rw [decide_eq_false negative, Int.ediv_eq_zero_of_lt (by omega) (by omega)]
    rfl

theorem sarOp_value : (sarOp a n).value = BitVec.ofInt 16 (a.toInt / 2 ^ n) := by
  rw [sarOp]
  split
  · rfl
  · exact (sar_of_fifteen_le a n (by omega)).symm

theorem sar_getLsbD (k : Nat) (hk : k < 16) :
    (BitVec.ofInt 16 (a.toInt / 2 ^ n)).getLsbD k =
      if k + n < 16 then a.getLsbD (k + n) else a.getLsbD 15 := by
  have shift : BitVec.ofInt 16 (a.toInt / 2 ^ n) = a.sshiftRight n := by
    rw [BitVec.sshiftRight, Int.shiftRight_eq_div_pow]
    rfl
  rw [shift, BitVec.getLsbD_sshiftRight, decide_eq_false (by omega), BitVec.msb_eq_getLsbD_last,
    Nat.add_comm]
  rfl

theorem slrOp_value_toNat : (slrOp a n).value.toNat = a.toNat / 2 ^ n := by
  have := a.isLt
  rw [slrOp]
  split
  · exact (BitVec.toNat_ofNat _ _).trans (Nat.mod_eq_of_lt ((Nat.div_le_self _ _).trans_lt a.isLt))
  · exact (Nat.div_eq_of_lt (a.isLt.trans_le (Nat.pow_le_pow_right (by decide) (by omega)))).symm

theorem slrOp_value : (slrOp a n).value = a >>> n := by
  apply BitVec.eq_of_toNat_eq
  rw [slrOp_value_toNat, BitVec.toNat_ushiftRight, Nat.shiftRight_eq_div_pow]

end ShiftResults

/-! The two forms of each shift: a register count read by `SHIFT_COUNT_MODE`, or a quick one. -/

/-- Settles O31: both forms write the operand shifted left. -/
theorem shiftLeftBits : Obligations.ShiftLeftBits := by
  unfold Obligations.ShiftLeftBits
  intro s a n i rd form
  have run : exec i s = .next (s.setResult rd (shlOp s.config.carrySal a n)) := by
    obtain ⟨r1, r2, rfl, rfl, rfl⟩ | ⟨v, rfl, rfl, rfl⟩ := form
    · rw [exec_sal, registerCount_eq_shiftCount]
    · exact exec_salq s rd v
  refine ⟨_, run, ?bits, ?carry, resultIn_setResult s rd _⟩
  case bits =>
    intro k hk
    rw [reg_setResult_same, shlOp_value, shl_getLsbD a n k hk]
  case carry =>
    cases s.config.carrySal with
    | lastOut => exact flagC_setResult rd rfl
    | orOut =>
      have carry := flagC_setResult (s := s) (x := shlOp .orOut a n) rd (carrySal_orOut a n)
      exact carry ▸ carrySal_orOut_iff a n
    | zero => exact flagC_setResult rd rfl
    | any => trivial

/-- Settles O32: both forms write the floor, whose bits are those of the arithmetic shift. -/
theorem shiftArithmeticRight : Obligations.ShiftArithmeticRight := by
  unfold Obligations.ShiftArithmeticRight
  intro s a n i rd form
  have run : exec i s = .next (s.setResult rd (sarOp a n)) := by
    obtain ⟨r1, r2, rfl, rfl, rfl⟩ | ⟨v, rfl, rfl, rfl⟩ := form
    · rw [exec_sar, registerCount_eq_shiftCount]
    · exact exec_sarq s rd v
  have value : (s.setResult rd (sarOp a n)).reg rd = BitVec.ofInt 16 (a.toInt / 2 ^ n) := by
    rw [reg_setResult_same, sarOp_value]
  refine ⟨_, run, value, fun k hk => ?bits, fun large => ?sign, flagC_setResult rd rfl,
    resultIn_setResult s rd _⟩
  case bits => rw [value, sar_getLsbD a n k hk]
  case sign =>
    rw [value, sar_of_fifteen_le a n large, BitVec.msb_eq_getLsbD_last]

/-- Settles O33: both forms write the floor, whose bits are those of the logical shift; bit 15 of it is
bit 15 + n of the operand, set only where n is 0. -/
theorem shiftLogicalRight : Obligations.ShiftLogicalRight := by
  unfold Obligations.ShiftLogicalRight
  intro s a n i rd form
  have run : exec i s = .next (s.setResult rd (slrOp a n)) := by
    obtain ⟨r1, r2, rfl, rfl, rfl⟩ | ⟨v, rfl, rfl, rfl⟩ := form
    · rw [exec_slr, registerCount_eq_shiftCount]
    · exact exec_slrq s rd v
  have bits (k : Nat) : (a >>> n).getLsbD k = a.getLsbD (k + n) := by
    rw [BitVec.getLsbD_ushiftRight, Nat.add_comm]
  have value : (s.setResult rd (slrOp a n)).reg rd = a >>> n := by
    rw [reg_setResult_same, slrOp_value]
  refine ⟨_, run, ?floor, ?bits, ?zero, ?negative, flagC_setResult rd rfl, resultIn_setResult s rd _⟩
  case floor => rw [reg_setResult_same, slrOp_value_toNat]
  case bits => exact fun k _ => value ▸ bits k
  case zero =>
    intro large
    rw [value]
    refine BitVec.eq_of_getLsbD_eq fun k _ => ?_
    rw [bits, BitVec.getLsbD_of_ge a (k + n) (by omega), BitVec.getLsbD_zero]
  case negative =>
    intro negative
    rw [State.setResult_flagN, slrOp_value, BitVec.msb_eq_getLsbD_last, bits] at negative
    have inside : 15 + n < 16 := BitVec.lt_of_getLsbD negative
    obtain rfl : n = 0 := by omega
    exact ⟨rfl, negative⟩

theorem carrySal_definite {p : CarrySal} (a : Word) (n : Nat) (h : p ≠ .any) :
    ∃ c, carrySal p a n = some c := by
  cases p with
  | any => exact absurd rfl h
  | _ => exact ⟨_, rfl⟩

/-- A register shift by less than 16 writes one result on every machine with the same registers and the
same `CARRY_SAL`; its C is definite but after SAL under `CARRY_SAL` = any (R176). -/
theorem exec_small_shift {s : State} {r1 r2 rt : Reg} {i : Instr} (small : (s.reg r2).toNat < 16)
    (form : i = .sal r1 r2 rt ∨ i = .sar r1 r2 rt ∨ i = .slr r1 r2 rt) :
    ∃ x : AluResult, ((i = .sal r1 r2 rt → s.config.carrySal ≠ .any) → ∃ c, x.carry = some c) ∧
      ∀ u : State, u.regs = s.regs → u.config.carrySal = s.config.carrySal →
        exec i u = .next (u.setResult rt x) := by
  have count (m : ShiftCountMode) : shiftCount m (s.reg r2) = (s.reg r2).toNat :=
    shiftCount_of_lt m _ small
  have reg {u : State} (same : u.regs = s.regs) (q : Reg) : u.reg q = s.reg q :=
    sameRegs_of_regs_eq same q List.not_mem_nil
  obtain rfl | rfl | rfl := form
  · exact ⟨_, fun definite => carrySal_definite _ _ (definite rfl), fun u same carry => by
      rw [exec_sal, carry, reg same, reg same, count]⟩
  · exact ⟨_, fun _ => ⟨false, rfl⟩, fun u same _ => by rw [exec_sar, reg same, reg same, count]⟩
  · exact ⟨_, fun _ => ⟨false, rfl⟩, fun u same _ => by rw [exec_slr, reg same, reg same, count]⟩

/-- Settles O34: below 16 the mode does not change the count, so both runs write the same result. -/
theorem smallShiftIgnoresCountMode : Obligations.SmallShiftIgnoresCountMode := by
  unfold Obligations.SmallShiftIgnoresCountMode
  intro s mode r1 r2 rt small i form
  obtain ⟨x, definite, run⟩ := exec_small_shift small form
  obtain ⟨regs, flagZ, flagN⟩ := setResult_agree
    (s := s) (u := { s with config := { s.config with shiftCountMode := mode } }) rfl rt x
  refine ⟨_, _, run s rfl rfl, run _ rfl rfl, regs, flagZ, flagN, fun h => ?_⟩
  obtain ⟨c, carry⟩ := definite h
  rw [flagC_setResult rt carry, flagC_setResult rt carry]

/-! The branch conditions after a comparison (R215). -/

section AfterCompare

variable (s : State) (a b : Word)

/-- Where the signed difference fits 16 bits, N is the signed order (R215). -/
theorem msb_sub_of_fits (low : -32768 ≤ a.toInt - b.toInt) (high : a.toInt - b.toInt ≤ 32767) :
    (a - b).msb = decide (a.toInt < b.toInt) := by
  have difference : (a - b).toInt = a.toInt - b.toInt := by
    rw [BitVec.toInt_sub, Int.bmod_eq_of_le (by omega) (by omega)]
  rw [BitVec.msb_eq_toInt, difference]
  exact decide_eq_decide.2 (by omega)

theorem flagZ_setFlags_subOp_iff : (s.setFlags (subOp a b)).flagZ = true ↔ a = b := by
  rw [flagZ_setFlags_subOp, decide_eq_true_iff]

theorem flagC_setFlags_subOp_iff : (s.setFlags (subOp a b)).flagC = true ↔ a.toNat < b.toNat := by
  rw [flagC_setFlags_subOp, decide_eq_true_iff]

theorem flagN_setFlags_subOp_iff (low : -32768 ≤ a.toInt - b.toInt)
    (high : a.toInt - b.toInt ≤ 32767) :
    (s.setFlags (subOp a b)).flagN = true ↔ a.toInt < b.toInt := by
  rw [flagN_setFlags_subOp, msb_sub_of_fits a b low high, decide_eq_true_iff]

theorem toInt_le_iff_lt_or_eq : a.toInt ≤ b.toInt ↔ a.toInt < b.toInt ∨ a = b := by
  rw [← BitVec.toInt_inj, Int.le_iff_lt_or_eq]

theorem toNat_le_iff_lt_or_eq : a.toNat ≤ b.toNat ↔ a.toNat < b.toNat ∨ a = b := by
  rw [← BitVec.toNat_inj, Nat.le_iff_lt_or_eq]

end AfterCompare

/-! Tests of flags that stand for propositions. -/

theorem flagTest_not {c : Bool} {p : Prop} (h : c = true ↔ p) : (!c) = true ↔ ¬ p := by
  rw [Bool.not_eq_true', ← Bool.not_eq_true, h]

theorem flagTest_or {c d : Bool} {p q : Prop} (hc : c = true ↔ p) (hd : d = true ↔ q) :
    (c || d) = true ↔ p ∨ q := by
  rw [Bool.or_eq_true, hc, hd]

/-- A branch goes to its target exactly where its test's proposition holds (R216). -/
theorem goes_of_exec_eq {t : State} {i : Instr} {c : Bool} {imm : Word} {holds : Prop}
    (run : exec i t = .next (t.branchIf c imm)) (test : c = true ↔ holds) :
    ∃ u, exec i t = .next u ∧ (holds → u.pc = imm) ∧ (¬ holds → u.pc = t.pc) := by
  obtain ⟨u, run, goes, falls, -⟩ := branches_of_exec_eq run test
  exact ⟨u, run, goes, falls⟩

/-- Settles O38: after the comparison Z says equal, C says below and, where the difference fits, N says
less; each branch tests one of these, its negation, or its union with Z. -/
theorem branchesAfterCompare : Obligations.BranchesAfterCompare := by
  unfold Obligations.BranchesAfterCompare
  intro s r1 r2 imm
  refine ⟨_, exec_cmp s r1 r2, fun i holds form => ?_⟩
  have equal := flagZ_setFlags_subOp_iff s (s.reg r1) (s.reg r2)
  have below := flagC_setFlags_subOp_iff s (s.reg r1) (s.reg r2)
  have below_or_equal := (flagTest_or below equal).trans (toNat_le_iff_lt_or_eq _ _).symm
  obtain ⟨rfl, rfl⟩ | ⟨rfl, rfl⟩ | ⟨rfl, rfl⟩ | ⟨rfl, rfl⟩ | ⟨rfl, rfl⟩ | ⟨rfl, rfl⟩ |
    ⟨⟨low, high⟩, form⟩ := form
  · exact goes_of_exec_eq (exec_beq _ imm) equal
  · exact goes_of_exec_eq (exec_bne _ imm) (flagTest_not equal)
  · exact goes_of_exec_eq (exec_bltu _ imm) below
  · exact goes_of_exec_eq (exec_bleu _ imm) below_or_equal
  · exact goes_of_exec_eq (exec_bgeu _ imm) ((flagTest_not below).trans Nat.not_lt)
  · exact goes_of_exec_eq (exec_bgtu _ imm) ((flagTest_not below_or_equal).trans Nat.not_le)
  · have less := flagN_setFlags_subOp_iff s (s.reg r1) (s.reg r2) low high
    have less_or_equal := (flagTest_or less equal).trans (toInt_le_iff_lt_or_eq _ _).symm
    obtain ⟨rfl, rfl⟩ | ⟨rfl, rfl⟩ | ⟨rfl, rfl⟩ | ⟨rfl, rfl⟩ := form
    · exact goes_of_exec_eq (exec_blt _ imm) less
    · exact goes_of_exec_eq (exec_ble _ imm) less_or_equal
    · exact goes_of_exec_eq (exec_bge _ imm) ((flagTest_not less).trans Int.not_lt)
    · exact goes_of_exec_eq (exec_bgt _ imm) ((flagTest_not less_or_equal).trans Int.not_le)

/-! Cycle counts (R282). -/

/-- The cycles of an instruction beyond its words and its bytes of data memory (R282). -/
def operationCycles : Instr → Nat
  | .inp _ | .out _ | .mul _ _ _ | .mulq _ _ => 1
  | .div _ _ _ | .mod _ _ _ | .divq _ _ | .modq _ _ => 2
  | _ => 0

theorem cycles_eq_add_operationCycles (i : Instr) :
    cycles i = i.length + dataBytes i + operationCycles i := by
  cases i <;> rfl

/-- Settles O60: the three premises are the three values of `operationCycles`. -/
theorem cycleCountsFollowPattern : Obligations.CycleCountsFollowPattern := by
  unfold Obligations.CycleCountsFollowPattern
  intro i extra form
  suffices h : operationCycles i = extra by rw [cycles_eq_add_operationCycles, h]
  obtain ⟨one, rfl⟩ | ⟨two, rfl⟩ | ⟨io, ternary, quick, rfl⟩ := form
  · obtain ⟨r, rfl | rfl⟩ | ⟨a, b, t, rfl⟩ | ⟨r, v, rfl⟩ := one <;> rfl
  · obtain ⟨a, b, t, rfl | rfl⟩ | ⟨r, v, rfl | rfl⟩ := two <;> rfl
  · unfold operationCycles
    split
    case h_1 r => exact absurd rfl (io r).1
    case h_2 r => exact absurd rfl (io r).2
    case h_3 a b t => exact absurd rfl (ternary a b t).1
    case h_4 r v => exact absurd rfl (quick r v).1
    case h_5 a b t => exact absurd rfl (ternary a b t).2.1
    case h_6 a b t => exact absurd rfl (ternary a b t).2.2
    case h_7 r v => exact absurd rfl (quick r v).2.1
    case h_8 r v => exact absurd rfl (quick r v).2.2
    case h_9 => rfl

end Sys2Proof.Machine
